-- ==== Sys2Proof/Word.lean ====
section
/-! DEFINITION. The fixed-width words of the machine: every value is an unsigned number of a stated width
(00_scope.md R10, R11). -/

namespace Sys2Proof

/-- A memory cell, a general register, a timer: 8 bits. -/
abbrev Byte := BitVec 8

/-- An instruction word, `PC`, `I`, a stack entry, an address: 16 bits. -/
abbrev Word := BitVec 16

/-- The fields `class`, `X`, `Y`, `N` of an instruction word: 4 bits (30_encoding.md R71). -/
abbrev Nibble := BitVec 4

/-- The field `NNN`: 12 bits (30_encoding.md R71). -/
abbrev Imm12 := BitVec 12

/-- `zext_16` (00_scope.md R11). -/
def zext16 {n : Nat} (v : BitVec n) : Word := v.setWidth 16

end Sys2Proof
end

