-- ==== Sys2Proof/Syntax.lean ====
section
/-! DEFINITION. The 34 instructions of 30_encoding.md R74, one constructor for each row of the opcode table. Each field has the
width the encoding gives it (R71), so no operand outside its range can be written down. A field that the hardware
encodes and ignores (R80, R86) is kept, so that every recognised word is exactly one instruction (log 6). -/

namespace Sys2Proof

/-- The instructions, in the order of 30_encoding.md R74. -/
inductive Instr where
  /-- `00E0` CLS -/
  | cls
  /-- `00EE` RET -/
  | ret
  /-- `1NNN` JP nnn -/
  | jp (nnn : Imm12)
  /-- `2NNN` CALL nnn -/
  | call (nnn : Imm12)
  /-- `3XKK` SE Vx, kk -/
  | seImm (x : Nibble) (kk : Byte)
  /-- `4XKK` SNE Vx, kk -/
  | sneImm (x : Nibble) (kk : Byte)
  /-- `5XY_` SE Vx, Vy; `u` is the low nibble the decoder does not examine (R80) -/
  | seReg (x y u : Nibble)
  /-- `6XKK` LD Vx, kk -/
  | ldImm (x : Nibble) (kk : Byte)
  /-- `7XKK` ADD Vx, kk -/
  | addImm (x : Nibble) (kk : Byte)
  /-- `8XY0` LD Vx, Vy -/
  | ldReg (x y : Nibble)
  /-- `8XY1` OR Vx, Vy -/
  | orReg (x y : Nibble)
  /-- `8XY2` AND Vx, Vy -/
  | andReg (x y : Nibble)
  /-- `8XY3` XOR Vx, Vy -/
  | xorReg (x y : Nibble)
  /-- `8XY4` ADD Vx, Vy -/
  | addReg (x y : Nibble)
  /-- `8XY5` SUB Vx, Vy -/
  | subReg (x y : Nibble)
  /-- `8XY6` SHR Vx; `y` is encoded and ignored (R86) -/
  | shr (x y : Nibble)
  /-- `8XY7` SUBN Vx, Vy -/
  | subnReg (x y : Nibble)
  /-- `8XYE` SHL Vx; `y` is encoded and ignored (R86) -/
  | shl (x y : Nibble)
  /-- `9XY_` SNE Vx, Vy; `u` is the low nibble the decoder does not examine (R80) -/
  | sneReg (x y u : Nibble)
  /-- `ANNN` LD I, nnn -/
  | ldI (nnn : Imm12)
  /-- `BNNN` JP V0, nnn -/
  | jpV0 (nnn : Imm12)
  /-- `CXKK` RND Vx, kk -/
  | rnd (x : Nibble) (kk : Byte)
  /-- `DXYN` DRW Vx, Vy, n -/
  | drw (x y n : Nibble)
  /-- `EX9E` SKP Vx -/
  | skp (x : Nibble)
  /-- `EXA1` SKNP Vx -/
  | sknp (x : Nibble)
  /-- `FX07` LD Vx, DT -/
  | ldVxDt (x : Nibble)
  /-- `FX0A` LD Vx, K -/
  | ldVxK (x : Nibble)
  /-- `FX15` LD DT, Vx -/
  | ldDtVx (x : Nibble)
  /-- `FX18` LD ST, Vx -/
  | ldStVx (x : Nibble)
  /-- `FX1E` ADD I, Vx -/
  | addI (x : Nibble)
  /-- `FX29` LD F, Vx -/
  | ldF (x : Nibble)
  /-- `FX33` LD B, Vx -/
  | ldB (x : Nibble)
  /-- `FX55` LD [I], Vx -/
  | storeRegs (x : Nibble)
  /-- `FX65` LD Vx, [I] -/
  | loadRegs (x : Nibble)
deriving DecidableEq, Repr

/-- The hexadecimal pattern of the instruction, its normative name (30_encoding.md R84). -/
def Instr.pattern : Instr → String
  | .cls => "00E0"
  | .ret => "00EE"
  | .jp _ => "1NNN"
  | .call _ => "2NNN"
  | .seImm _ _ => "3XKK"
  | .sneImm _ _ => "4XKK"
  | .seReg _ _ _ => "5XY0"
  | .ldImm _ _ => "6XKK"
  | .addImm _ _ => "7XKK"
  | .ldReg _ _ => "8XY0"
  | .orReg _ _ => "8XY1"
  | .andReg _ _ => "8XY2"
  | .xorReg _ _ => "8XY3"
  | .addReg _ _ => "8XY4"
  | .subReg _ _ => "8XY5"
  | .shr _ _ => "8XY6"
  | .subnReg _ _ => "8XY7"
  | .shl _ _ => "8XYE"
  | .sneReg _ _ _ => "9XY0"
  | .ldI _ => "ANNN"
  | .jpV0 _ => "BNNN"
  | .rnd _ _ => "CXKK"
  | .drw _ _ _ => "DXYN"
  | .skp _ => "EX9E"
  | .sknp _ => "EXA1"
  | .ldVxDt _ => "FX07"
  | .ldVxK _ => "FX0A"
  | .ldDtVx _ => "FX15"
  | .ldStVx _ => "FX18"
  | .addI _ => "FX1E"
  | .ldF _ => "FX29"
  | .ldB _ => "FX33"
  | .storeRegs _ => "FX55"
  | .loadRegs _ => "FX65"

end Sys2Proof
end

