-- ==== Sys2Proof/Decode.lean ====
section
/-! DEFINITION. Decoding, by the dispatch of 30_encoding.md R75 to R80; the opcode table of R74 as rows of mask and match; and the
encoder. Decoding reads nothing but the word (R83, 40_fetch_decode_execute.md R93). -/

namespace Sys2Proof

/-- Why a decoder gives no instruction. -/
inductive DecodeError where
  /-- the word matches no row of the opcode table (30_encoding.md R81) -/
  | unrecognized (w : Word)
  /-- fewer than the two bytes of an instruction word were given (30_encoding.md R70) -/
  | truncated
deriving DecidableEq, Repr

/-! ## Fields (30_encoding.md R71) -/

/-- `w[15:12]`. -/
def fieldClass (w : Word) : Nibble := w.extractLsb' 12 4

/-- `X` = `w[11:8]`. -/
def fieldX (w : Word) : Nibble := w.extractLsb' 8 4

/-- `Y` = `w[7:4]`. -/
def fieldY (w : Word) : Nibble := w.extractLsb' 4 4

/-- `N` = `w[3:0]`. -/
def fieldN (w : Word) : Nibble := w.extractLsb' 0 4

/-- `KK` = `w[7:0]`. -/
def fieldKK (w : Word) : Byte := w.extractLsb' 0 8

/-- `NNN` = `w[11:0]`. -/
def fieldNNN (w : Word) : Imm12 := w.extractLsb' 0 12

/-! ## Decoding -/

/-- Class 0: all 16 bits are compared (30_encoding.md R76, D8: log 13). -/
def decodeClass0 (w : Word) : Except DecodeError Instr :=
  if w = 0x00E0 then .ok .cls
  else if w = 0x00EE then .ok .ret
  else .error (.unrecognized w)

/-- Class 8: the low nibble selects the operation (30_encoding.md R77, D9: log 14). -/
def decodeClass8 (w : Word) : Except DecodeError Instr :=
  match (fieldN w).toNat with
  | 0x0 => .ok (.ldReg (fieldX w) (fieldY w))
  | 0x1 => .ok (.orReg (fieldX w) (fieldY w))
  | 0x2 => .ok (.andReg (fieldX w) (fieldY w))
  | 0x3 => .ok (.xorReg (fieldX w) (fieldY w))
  | 0x4 => .ok (.addReg (fieldX w) (fieldY w))
  | 0x5 => .ok (.subReg (fieldX w) (fieldY w))
  | 0x6 => .ok (.shr (fieldX w) (fieldY w))
  | 0x7 => .ok (.subnReg (fieldX w) (fieldY w))
  | 0xE => .ok (.shl (fieldX w) (fieldY w))
  | _ => .error (.unrecognized w)

/-- Class E: the low byte selects the instruction (30_encoding.md R78). -/
def decodeClassE (w : Word) : Except DecodeError Instr :=
  if fieldKK w = 0x9E then .ok (.skp (fieldX w))
  else if fieldKK w = 0xA1 then .ok (.sknp (fieldX w))
  else .error (.unrecognized w)

/-- Class F: the low byte selects the instruction (30_encoding.md R79). -/
def decodeClassF (w : Word) : Except DecodeError Instr :=
  if fieldKK w = 0x07 then .ok (.ldVxDt (fieldX w))
  else if fieldKK w = 0x0A then .ok (.ldVxK (fieldX w))
  else if fieldKK w = 0x15 then .ok (.ldDtVx (fieldX w))
  else if fieldKK w = 0x18 then .ok (.ldStVx (fieldX w))
  else if fieldKK w = 0x1E then .ok (.addI (fieldX w))
  else if fieldKK w = 0x29 then .ok (.ldF (fieldX w))
  else if fieldKK w = 0x33 then .ok (.ldB (fieldX w))
  else if fieldKK w = 0x55 then .ok (.storeRegs (fieldX w))
  else if fieldKK w = 0x65 then .ok (.loadRegs (fieldX w))
  else .error (.unrecognized w)

/-- The decoder of one instruction word: primary dispatch on the top nibble, a secondary one in classes 0, 8, E and F
(30_encoding.md R75; classes 5 and 9 do not examine the low nibble, R80, D7: log 12). -/
def decodeWord (w : Word) : Except DecodeError Instr :=
  match (fieldClass w).toNat with
  | 0x0 => decodeClass0 w
  | 0x1 => .ok (.jp (fieldNNN w))
  | 0x2 => .ok (.call (fieldNNN w))
  | 0x3 => .ok (.seImm (fieldX w) (fieldKK w))
  | 0x4 => .ok (.sneImm (fieldX w) (fieldKK w))
  | 0x5 => .ok (.seReg (fieldX w) (fieldY w) (fieldN w))
  | 0x6 => .ok (.ldImm (fieldX w) (fieldKK w))
  | 0x7 => .ok (.addImm (fieldX w) (fieldKK w))
  | 0x8 => decodeClass8 w
  | 0x9 => .ok (.sneReg (fieldX w) (fieldY w) (fieldN w))
  | 0xA => .ok (.ldI (fieldNNN w))
  | 0xB => .ok (.jpV0 (fieldNNN w))
  | 0xC => .ok (.rnd (fieldX w) (fieldKK w))
  | 0xD => .ok (.drw (fieldX w) (fieldY w) (fieldN w))
  | 0xE => decodeClassE w
  | _ => decodeClassF w   -- the nibble is 0xF

/-- The word two consecutive bytes hold: the first is the more significant (20_memory.md R54, R56). -/
def wordOfBytes (hi lo : Byte) : Word := hi ++ lo

/-- The more significant byte of a word. -/
def highByte (w : Word) : Byte := w.extractLsb' 8 8

/-- The less significant byte of a word. -/
def lowByte (w : Word) : Byte := w.extractLsb' 0 8

/-- Decoding the first instruction of a byte stream, with the bytes that follow it (30_encoding.md R70). -/
def decode : List Byte → Except DecodeError (Instr × List Byte)
  | hi :: lo :: rest =>
    match decodeWord (wordOfBytes hi lo) with
    | .ok i => .ok (i, rest)
    | .error e => .error e
  | [_] => .error .truncated
  | [] => .error .truncated

/-! ## The opcode table (30_encoding.md R74) -/

/-- One row: a word `w` is the instruction iff `w &&& mask = value`. -/
structure OpcodeRow where
  pattern : String
  mask : Word
  value : Word
deriving DecidableEq, Repr

/-- Rows of classes 0 to 7. -/
def opcodeRowsLow : List OpcodeRow :=
  [⟨"00E0", 0xFFFF, 0x00E0⟩, ⟨"00EE", 0xFFFF, 0x00EE⟩, ⟨"1NNN", 0xF000, 0x1000⟩, ⟨"2NNN", 0xF000, 0x2000⟩,
   ⟨"3XKK", 0xF000, 0x3000⟩, ⟨"4XKK", 0xF000, 0x4000⟩, ⟨"5XY0", 0xF000, 0x5000⟩, ⟨"6XKK", 0xF000, 0x6000⟩,
   ⟨"7XKK", 0xF000, 0x7000⟩]

/-- Rows of class 8. -/
def opcodeRows8 : List OpcodeRow :=
  [⟨"8XY0", 0xF00F, 0x8000⟩, ⟨"8XY1", 0xF00F, 0x8001⟩, ⟨"8XY2", 0xF00F, 0x8002⟩, ⟨"8XY3", 0xF00F, 0x8003⟩,
   ⟨"8XY4", 0xF00F, 0x8004⟩, ⟨"8XY5", 0xF00F, 0x8005⟩, ⟨"8XY6", 0xF00F, 0x8006⟩, ⟨"8XY7", 0xF00F, 0x8007⟩,
   ⟨"8XYE", 0xF00F, 0x800E⟩]

/-- Rows of classes 9 to F. -/
def opcodeRowsHigh : List OpcodeRow :=
  [⟨"9XY0", 0xF000, 0x9000⟩, ⟨"ANNN", 0xF000, 0xA000⟩, ⟨"BNNN", 0xF000, 0xB000⟩, ⟨"CXKK", 0xF000, 0xC000⟩,
   ⟨"DXYN", 0xF000, 0xD000⟩, ⟨"EX9E", 0xF0FF, 0xE09E⟩, ⟨"EXA1", 0xF0FF, 0xE0A1⟩, ⟨"FX07", 0xF0FF, 0xF007⟩,
   ⟨"FX0A", 0xF0FF, 0xF00A⟩, ⟨"FX15", 0xF0FF, 0xF015⟩, ⟨"FX18", 0xF0FF, 0xF018⟩, ⟨"FX1E", 0xF0FF, 0xF01E⟩,
   ⟨"FX29", 0xF0FF, 0xF029⟩, ⟨"FX33", 0xF0FF, 0xF033⟩, ⟨"FX55", 0xF0FF, 0xF055⟩, ⟨"FX65", 0xF0FF, 0xF065⟩]

/-- The 34 rows of 30_encoding.md R74. -/
def opcodeTable : List OpcodeRow := opcodeRowsLow ++ opcodeRows8 ++ opcodeRowsHigh

/-- The row matches the word. -/
def OpcodeRow.matchesWord (r : OpcodeRow) (w : Word) : Bool := w &&& r.mask == r.value

/-! ## Encoding (formats of 30_encoding.md R72) -/

/-- Format `NNN`. -/
def formatNNN (cls : Nibble) (nnn : Imm12) : Word := cls ++ nnn

/-- Format `XKK`; also format `X`, whose low byte is the sub-opcode. -/
def formatXKK (cls x : Nibble) (kk : Byte) : Word := cls ++ x ++ kk

/-- Formats `XYN` and `XY`, whose low nibble is an operand, a sub-opcode or ignored. -/
def formatXYN (cls x y n : Nibble) : Word := cls ++ x ++ y ++ n

/-- The word of an instruction (encodings of files 41 to 45). -/
def encodeWord : Instr → Word
  | .cls => 0x00E0
  | .ret => 0x00EE
  | .jp nnn => formatNNN 0x1 nnn
  | .call nnn => formatNNN 0x2 nnn
  | .seImm x kk => formatXKK 0x3 x kk
  | .sneImm x kk => formatXKK 0x4 x kk
  | .seReg x y u => formatXYN 0x5 x y u
  | .ldImm x kk => formatXKK 0x6 x kk
  | .addImm x kk => formatXKK 0x7 x kk
  | .ldReg x y => formatXYN 0x8 x y 0x0
  | .orReg x y => formatXYN 0x8 x y 0x1
  | .andReg x y => formatXYN 0x8 x y 0x2
  | .xorReg x y => formatXYN 0x8 x y 0x3
  | .addReg x y => formatXYN 0x8 x y 0x4
  | .subReg x y => formatXYN 0x8 x y 0x5
  | .shr x y => formatXYN 0x8 x y 0x6
  | .subnReg x y => formatXYN 0x8 x y 0x7
  | .shl x y => formatXYN 0x8 x y 0xE
  | .sneReg x y u => formatXYN 0x9 x y u
  | .ldI nnn => formatNNN 0xA nnn
  | .jpV0 nnn => formatNNN 0xB nnn
  | .rnd x kk => formatXKK 0xC x kk
  | .drw x y n => formatXYN 0xD x y n
  | .skp x => formatXKK 0xE x 0x9E
  | .sknp x => formatXKK 0xE x 0xA1
  | .ldVxDt x => formatXKK 0xF x 0x07
  | .ldVxK x => formatXKK 0xF x 0x0A
  | .ldDtVx x => formatXKK 0xF x 0x15
  | .ldStVx x => formatXKK 0xF x 0x18
  | .addI x => formatXKK 0xF x 0x1E
  | .ldF x => formatXKK 0xF x 0x29
  | .ldB x => formatXKK 0xF x 0x33
  | .storeRegs x => formatXKK 0xF x 0x55
  | .loadRegs x => formatXKK 0xF x 0x65

/-- The two bytes of an instruction as memory holds them, high byte first. -/
def encode (i : Instr) : List Byte := [highByte (encodeWord i), lowByte (encodeWord i)]

/-- The instruction the decoder reads from an instruction word numbered as spec/opcode_table.json numbers it; an instruction
longer than 16 bits does not exist here (30_encoding.md R70; log 37). -/
def decodeTableWord (nbits w : Nat) : Option Instr :=
  if nbits ≤ 16 then
    match decode [highByte (BitVec.ofNat 16 (w % 2 ^ nbits)), lowByte (BitVec.ofNat 16 (w % 2 ^ nbits))] with
    | .ok (i, _) => some i
    | .error _ => none
  else none

end Sys2Proof
end

