-- ==== Sys2Proof/Machine/Flags.lean ====
section
/-! DEFINITION. The flag computations: what is written to `VF` (10_state.md R21, 42_alu.md R132). -/

namespace Sys2Proof.Machine

/-- A flag as an 8-bit value, 0x00 or 0x01 (42_alu.md R120). -/
def flagByte (b : Bool) : Byte := if b then 1 else 0

/-- `zext_9(a) + zext_9(b)` (42_alu.md R127). -/
def sum9 (a b : Byte) : BitVec 9 := a.setWidth 9 + b.setWidth 9

/-- The carry out of an addition: bit 8 of the 9-bit sum (42_alu.md R127). -/
def carryOut (a b : Byte) : Bool := (sum9 a b).getLsbD 8

/-- NOT borrow of `a - b`: `a >= b` (42_alu.md R128, R130). -/
def notBorrow (a b : Byte) : Bool := b.toNat ≤ a.toNat

/-- The bit a right shift drops: bit 0 (42_alu.md R129). -/
def droppedRight (a : Byte) : Bool := a.getLsbD 0

/-- The bit a left shift drops: bit 7 (42_alu.md R131). -/
def droppedLeft (a : Byte) : Bool := a.getLsbD 7

end Sys2Proof.Machine
end

