-- ==== Sys2Proof/Config.lean ====
section
/-! DEFINITION. The sizes the hardware is built with (00_scope.md R9), and the two free values of the model. -/

namespace Sys2Proof.Config

/-- `MEM_SIZE` (R9). -/
def memSize : Nat := 4096

/-- `PROG_BASE` (R9). -/
def progBase : Nat := 0x200

/-- `MAX_IMAGE`: `4096 - 0x200` = 3584 bytes (R9). -/
def maxImage : Nat := 3584

/-- `STACK_DEPTH` (R9). -/
def stackDepth : Nat := 16

/-- `DISP_W` (R9). -/
def dispW : Nat := 64

/-- `DISP_H` (R9). -/
def dispH : Nat := 32

/-- `NKEYS` (R9). -/
def numKeys : Nat := 16

/-- FREE VALUE. The bytes the random source answers when the environment's schedule supplies none: the n-th of them
(10_state.md R35, 42_alu.md R133: no law on `rnd`). DESIGN CHOICE of form, safe: log 1. -/
opaque randomByte : Nat → Byte

/-- FREE VALUE. What `STACK[k]` would give for `k` above 15, an entry that does not exist: read by `00EE` only in states with
`SP` above 16, which no run reaches (10_state.md R28). DESIGN CHOICE of form, safe: log 10. -/
opaque absentStackEntry : Nat → Word

end Sys2Proof.Config
end

