-- ==== Sys2Proof/Machine/Font.lean ====
section
/-! DEFINITION. The parameter FONT, its default, and what an unlisted memory cell reads as (20_memory.md R59, R60; 10_state.md R37). -/

namespace Sys2Proof.Machine

/-- `FONT_BASE` (00_scope.md R9). -/
def fontBase : Nat := 0x050

/-- The number of font bytes: 16 glyphs of 5 (00_scope.md R9). -/
def fontSize : Nat := 80

/-- The parameter `FONT`: `FONT[0]`..`FONT[79]`, glyph `d` being `FONT[5d]`..`FONT[5d + 4]` (20_memory.md R60). -/
abbrev Font := Vector Byte 80

/-- Glyphs 0 to 7 of the default table of 20_memory.md R60 (D24; PRESUMED, unsafe: log 7). -/
def fontLow : List Byte :=
  [0xF0, 0x90, 0x90, 0x90, 0xF0] ++ [0x20, 0x60, 0x20, 0x20, 0x70] ++
  [0xF0, 0x10, 0xF0, 0x80, 0xF0] ++ [0xF0, 0x10, 0xF0, 0x10, 0xF0] ++
  [0x90, 0x90, 0xF0, 0x10, 0x10] ++ [0xF0, 0x80, 0xF0, 0x10, 0xF0] ++
  [0xF0, 0x80, 0xF0, 0x90, 0xF0] ++ [0xF0, 0x10, 0x20, 0x40, 0x40]

/-- Glyphs 8 to F of the default table of 20_memory.md R60 (D24; PRESUMED, unsafe: log 7). -/
def fontHigh : List Byte :=
  [0xF0, 0x90, 0xF0, 0x90, 0xF0] ++ [0xF0, 0x90, 0xF0, 0x10, 0xF0] ++
  [0xF0, 0x90, 0xF0, 0x90, 0x90] ++ [0xE0, 0x90, 0xE0, 0x90, 0xE0] ++
  [0xF0, 0x80, 0x80, 0x80, 0xF0] ++ [0xE0, 0x90, 0x90, 0x90, 0xE0] ++
  [0xF0, 0x80, 0xF0, 0x80, 0xF0] ++ [0xF0, 0x80, 0xF0, 0x80, 0x80]

/-- `FONT[j]` of the default. -/
def fontByte (j : Nat) : Byte := (fontLow ++ fontHigh).getD j 0

/-- The default of the parameter `FONT` (20_memory.md R60; log 7). -/
def Font.customary : Font := Vector.ofFn fun j => fontByte j.val

/-- What an unlisted cell reads as: what it holds after RESET of a core with the default `FONT`, that is the table at 0x050 and
zero elsewhere (10_state.md R37). A convention of the memory's canonical form only: with another `FONT`, the cells whose
bytes differ are listed (`Memory.withFont`; log 7). -/
def Memory.unlisted (a : Nat) : Byte :=
  if fontBase ≤ a ∧ a < fontBase + fontSize then fontByte (a - fontBase) else 0

end Sys2Proof.Machine
end

