-- ==== Sys2Proof/Machine/State.lean ====
section
/-! DEFINITION. The state of the machine: everything 10_state.md gives it, and the command interface (00_scope.md R7) as plain data. -/

namespace Sys2Proof.Machine

/-- The report of a STEP (60_exceptions.md R171, R172). It is an output and changes no later STEP. -/
inductive Report where
  /-- code 0 -/
  | none
  /-- code 1: the fetched word matches no row of the opcode table (40_fetch_decode_execute.md R95) -/
  | unrecognized (w : Word)
  /-- code 2: `2NNN` with 16 entries on the stack (41_control_flow.md R101) -/
  | stackOverflow
  /-- code 3: `00EE` with none (41_control_flow.md R102) -/
  | stackUnderflow
deriving DecidableEq, Repr

/-- The result of a LOAD (70_reset_and_hazards.md R192, R193). -/
inductive LoadResult where
  /-- `LOAD_OK` -/
  | ok
  /-- `LOAD_EMPTY` -/
  | empty
  /-- `LOAD_TOO_LARGE` -/
  | tooLarge
deriving DecidableEq, Repr

/-- What a command returns (70_reset_and_hazards.md R206, column "returns"). -/
inductive CommandResult where
  /-- RESET, TICK, SETKEY and ACK_DISPLAY return nothing -/
  | nothing
  /-- STEP returns its report -/
  | report (r : Report)
  /-- LOAD returns its result -/
  | load (r : LoadResult)
deriving DecidableEq, Repr

/-- The six commands of the interface (00_scope.md R7). -/
inductive Command where
  /-- RESET (70_reset_and_hazards.md R190) -/
  | reset
  /-- LOAD(bytes) (70_reset_and_hazards.md R192) -/
  | load (image : List Byte)
  /-- STEP(rnd) (40_fetch_decode_execute.md R90, R96) -/
  | step (rnd : Byte)
  /-- TICK (60_exceptions.md R178) -/
  | tick
  /-- SETKEY(index, pressed), the index a natural number (60_exceptions.md R179) -/
  | setKey (index : Nat) (pressed : Bool)
  /-- ACK_DISPLAY (60_exceptions.md R182) -/
  | ackDisplay
deriving DecidableEq, Repr

/-- The command interface: the MODEL's own fields, inputs and outputs of the core and no state of it. -/
structure Port where
  /-- the environment's commands still to come, the next one first (log 2) -/
  schedule : List Command
  /-- the input `rnd` of the STEP being executed (40_fetch_decode_execute.md R96; log 1) -/
  rnd : Byte
  /-- how many bytes the random source has supplied of itself (log 1) -/
  draws : Nat
  /-- the output of the command last performed (60_exceptions.md R172; log 5) -/
  result : CommandResult
deriving DecidableEq, Repr

/-- `MEM` as (cell, byte) pairs in one canonical form (`Memory.wf` in Ops.lean): an unlisted cell reads as
`Memory.unlisted` says (Font.lean). -/
abbrev Memory := List Host.Cell

/-- `DISP` row by row: bit `x` of row `y` is the pixel in column `x` (10_state.md R31; log 3). -/
abbrev Display := Vector (BitVec 64) 32

/-- The state of the machine (10_state.md). -/
structure State where
  /-- `V[0]`..`V[15]` (R20) -/
  v : Vector Byte 16
  /-- `PC` (R23) -/
  pc : Word
  /-- `I` (R25) -/
  i : Word
  /-- `SP` (R26) -/
  sp : Byte
  /-- `STACK[0]`..`STACK[15]` (R27) -/
  stack : Vector Word 16
  /-- `DT` (R29) -/
  dt : Byte
  /-- `ST` (R30) -/
  st : Byte
  /-- `DISP` (R31) -/
  disp : Display
  /-- `CHG` (R32) -/
  chg : Bool
  /-- `KEY[0]`..`KEY[15]` (R33) -/
  key : Vector Bool 16
  /-- `MEM` (R34) -/
  mem : Memory
  /-- `FONT`, the parameter of the core that RESET installs (20_memory.md R60): no command and no instruction writes it (log 7) -/
  font : Font
  /-- the command interface, no state of the core (00_scope.md R7) -/
  port : Port
deriving DecidableEq, Repr

/-- No fault exists: a STEP "always completes; it cannot block, fault, trap or fail" (40_fetch_decode_execute.md R90), and no
instruction stops the machine (60_exceptions.md R170). Nothing raises one; safe. -/
inductive Fault : Type
deriving DecidableEq, Repr

/-- Why the model gives no meaning. -/
inductive Refusal where
  /-- Raised by an arm of `exec` whose instruction has no meaning yet; no arm is one now. Safe. -/
  | notModelled (mnemonic : String)
deriving DecidableEq, Repr

/-- The outcome of an instruction or of a command. -/
abbrev Result := Host.Outcome State Fault Refusal

/-- The interface before any command: nothing scheduled, nothing drawn, nothing returned (DESIGN CHOICE, log 4). -/
def Port.idle : Port := ⟨[], 0, 0, .nothing⟩

/-- The state after RESET, which a newly built core also has (10_state.md R37, R38; 70_reset_and_hazards.md R190). Memory
lists nothing: an unlisted cell reads as
`Memory.unlisted` says (Font.lean). -/
def State.reset : State where
  v := Vector.replicate 16 0
  pc := BitVec.ofNat 16 Config.progBase
  i := 0
  sp := 0
  stack := Vector.replicate 16 0
  dt := 0
  st := 0
  disp := Vector.replicate 32 0
  chg := false
  key := Vector.replicate 16 false
  mem := []
  font := Font.customary
  port := Port.idle

end Sys2Proof.Machine
end

