-- ==== Sys2Proof/Machine/Ops.lean ====
section
/-! DEFINITION. The operations on memory, registers, stack, display and keys through which every meaning reads and writes, and the
report that stands in the place of an exception (60_exceptions.md R170, R172). -/

namespace Sys2Proof.Machine

/-! ## Memory cells -/

/-- The byte in cell `a`. -/
def Memory.byteAt : Memory → Nat → Byte
  | [], a => Memory.unlisted a
  | (b, x) :: m, a => if b = a then x else Memory.byteAt m a

/-- Put the byte `x` into cell `a`, keeping the canonical form. -/
def Memory.put : Memory → Nat → Byte → Memory
  | [], a, x => if x = Memory.unlisted a then [] else [(a, x)]
  | (b, y) :: m, a, x =>
    if a < b then (if x = Memory.unlisted a then (b, y) :: m else (a, x) :: (b, y) :: m)
    else if a = b then (if x = Memory.unlisted a then m else (a, x) :: m)
    else (b, y) :: Memory.put m a x

/-- The canonical form from cell `lo` on: cells strictly rising, inside the 4096, and none listed with what it reads as unlisted. -/
def Memory.wfFrom : Nat → Memory → Bool
  | _, [] => true
  | lo, (a, x) :: m =>
    lo ≤ a && a < Config.memSize && x != Memory.unlisted a && Memory.wfFrom (a + 1) m

/-- The canonical form of memory. -/
def Memory.wf (m : Memory) : Bool := Memory.wfFrom 0 m

/-! ## Access primitives (20_memory.md R52 to R55) -/

/-- The cell a 16-bit address selects: the address modulo 4096 (20_memory.md R52, D4: log 8). -/
def cellOf (a : Word) : Nat := a.toNat % Config.memSize

/-- `MemRead(a, 1)` (20_memory.md R53). -/
def Memory.read1 (m : Memory) (a : Word) : Byte := m.byteAt (cellOf a)

/-- `MemRead(a, 2)`: the byte at the lower address is the more significant (20_memory.md R54). -/
def Memory.read2 (m : Memory) (a : Word) : Word := wordOfBytes (m.read1 a) (m.read1 (a + 1))

/-- `MemWrite(a, 1, x)` (20_memory.md R55). -/
def Memory.write1 (m : Memory) (a : Word) (x : Byte) : Memory := m.put (cellOf a) x

/-- `MemRead(a + k, 1)` for k from 0 to n - 1, ascending. -/
def Memory.readMany (m : Memory) (a : Word) : Nat → List Byte
  | 0 => []
  | n + 1 => m.read1 a :: m.readMany (a + 1) n

/-- `MemWrite(a + k, 1, bytes[k])` for every k, ascending. -/
def Memory.writeMany (m : Memory) (a : Word) : List Byte → Memory
  | [] => m
  | x :: xs => (m.write1 a x).writeMany (a + 1) xs

/-- `MEM` after RESET: `FONT[j]` at 0x050 + j, zero in every other cell (70_reset_and_hazards.md R190, 20_memory.md R60). -/
def Memory.withFont (font : Font) : Memory := Memory.writeMany [] (BitVec.ofNat 16 fontBase) font.toList

/-! ## Registers -/

/-- `V[x]`. -/
def State.reg (s : State) (x : Nibble) : Byte := s.v[x.toNat]'x.isLt

/-- `V[x] <- b`. -/
def State.setReg (s : State) (x : Nibble) (b : Byte) : State := { s with v := s.v.set x.toNat b x.isLt }

/-- `V[15] <- flag`. -/
def State.setFlag (s : State) (f : Bool) : State := s.setReg 15 (flagByte f)

/-- The result to `V[x]`, then, last, the flag to `V[15]` (42_alu.md R120, D11: log 16). -/
def State.setRegFlag (s : State) (x : Nibble) (b : Byte) (f : Bool) : State := (s.setReg x b).setFlag f

/-- `PC <- a`. -/
def State.setPc (s : State) (a : Word) : State := { s with pc := a }

/-- `PC <- (PC + 2) mod 65536` (10_state.md R24, D5: log 9). -/
def State.advance (s : State) : State := s.setPc (s.pc + 2)

/-- `PC <- (PC - 2) mod 65536` (45_keypad_timers.md R162). -/
def State.rewind (s : State) : State := s.setPc (s.pc - 2)

/-- Skip the next two bytes when the condition holds (41_control_flow.md R108). -/
def State.skipIf (s : State) (c : Bool) : State := if c then s.advance else s

/-- `I <- a`. -/
def State.setI (s : State) (a : Word) : State := { s with i := a }

/-- `DT <- b`. -/
def State.setDt (s : State) (b : Byte) : State := { s with dt := b }

/-- `ST <- b`. -/
def State.setSt (s : State) (b : Byte) : State := { s with st := b }

/-- `MEM` replaced. -/
def State.setMem (s : State) (m : Memory) : State := { s with mem := m }

/-! ## Call stack (10_state.md R26, R27) -/

/-- `STACK[k]`; an entry that does not exist has a free value (log 10). -/
def State.stackEntry (s : State) (k : Nat) : Word :=
  if h : k < 16 then s.stack[k] else Config.absentStackEntry k

/-- `STACK[SP] <- a; SP <- SP + 1`. -/
def State.push (s : State) (a : Word) : State :=
  { s with stack := s.stack.setIfInBounds s.sp.toNat a, sp := s.sp + 1 }

/-- `SP <- SP - 1; PC <- STACK[SP]`, the entry left in place. -/
def State.popPc (s : State) : State :=
  { s with sp := s.sp - 1, pc := s.stackEntry (s.sp - 1).toNat }

/-! ## Display (10_state.md R31, R32) -/

/-- `DISP[px, py]`. -/
def Display.pixel (d : Display) (px py : Nat) : Bool :=
  if h : py < 32 then d[py].getLsbD px else false

/-- `DISP[px, py] <- DISP[px, py] ^ 1`. -/
def Display.flip (d : Display) (px py : Nat) : Display :=
  if h : py < 32 then d.set py (d[py] ^^^ BitVec.twoPow 64 px) else d

/-- All pixels 0. -/
def Display.blank : Display := Vector.replicate 32 0

/-- The buffer replaced and `CHG <- 1`. -/
def State.showDisp (s : State) (d : Display) : State := { s with disp := d, chg := true }

/-! ## Keys (10_state.md R33) -/

/-- `KEY[k]`. -/
def State.keyDown (s : State) (k : Nibble) : Bool := s.key[k.toNat]'k.isLt

/-- The lowest-indexed pressed key, if any is pressed (45_keypad_timers.md R162). -/
def State.lowestKey (s : State) : Option Nibble :=
  ((List.range 16).map (BitVec.ofNat 4)).find? s.keyDown

/-! ## Reports (60_exceptions.md R172) -/

/-- `report r`: sets the output of the STEP, changes no state of the core and transfers no control (00_scope.md R12). -/
def State.report (s : State) (r : Report) : State := { s with port := { s.port with result := .report r } }

/-! ## Fetch and the start of a STEP (40_fetch_decode_execute.md R90 to R92) -/

/-- The word at `PC`, read from memory at that moment (R91). -/
def State.fetchWord (s : State) : Word := s.mem.read2 s.pc

/-- STEP up to decode: the input `rnd` taken, `PC` advanced by 2, the report NONE (R90, R92, R96). -/
def State.beginStep (s : State) (rnd : Byte) : State :=
  { s with pc := s.pc + 2, port := { s.port with rnd := rnd, result := .report .none } }

end Sys2Proof.Machine
end

