-- ==== Sys2Proof/Machine/Operands.lean ====
section
/-! DEFINITION. The operand forms: the address `I + k`, register lists, decimal digits, sprite bits and coordinates, the key a register selects. -/

namespace Sys2Proof.Machine

/-- `EA(k) = (I + k) mod 65536` (43_index_memory.md R146). -/
def State.ea (s : State) (k : Nat) : Word := s.i + BitVec.ofNat 16 k

/-- `V[0]`..`V[x]`, ascending (43_index_memory.md R144). -/
def State.regsTo (s : State) (x : Nibble) : List Byte := s.v.toList.take (x.toNat + 1)

/-- `V[k] <- bytes[k]` for the bytes there are; the registers above are unchanged (43_index_memory.md R145). -/
def State.setRegs (s : State) (bytes : List Byte) : State :=
  { s with v := Vector.ofFn fun k => bytes.getD k.val s.v[k] }

/-- Hundreds, tens and units of a byte (43_index_memory.md R143). -/
def decimalDigits (a : Byte) : List Byte :=
  [BitVec.ofNat 8 (a.toNat / 100), BitVec.ofNat 8 (a.toNat / 10 % 10), BitVec.ofNat 8 (a.toNat % 10)]

/-- The first byte of glyph `a`, the formula applied to the whole byte (43_index_memory.md R142, D17: log 22). -/
def glyphAddr (a : Byte) : Word := BitVec.ofNat 16 (fontBase + 5 * a.toNat)

/-- The key latch a register value selects: its low four bits (45_keypad_timers.md R166, D21: log 27). -/
def keyIndex (a : Byte) : Nibble := a.setWidth 4

/-! ## Sprites (44_display.md R151, R152) -/

/-- Column `c` of a sprite row, bit 7 being the leftmost (R152 b, D20: log 25). -/
def spriteBit (row : Byte) (c : Nat) : Bool := row.getLsbD (7 - c)

/-- A display column: modulo 64 (R152 c, D19: log 24). -/
def wrapX (x : Nat) : Nat := x % Config.dispW

/-- A display row: modulo 32 (R152 c, D19: log 24). -/
def wrapY (y : Nat) : Nat := y % Config.dispH

/-- A draw in progress: the buffer and `hit`. -/
structure Blit where
  disp : Display
  hit : Bool
deriving DecidableEq, Repr

/-- One sprite bit equal to 1 at a pixel: a lit pixel is a hit, and the pixel is inverted (R151). -/
def blitPixel (b : Blit) (px py : Nat) : Blit := ⟨b.disp.flip px py, b.hit || b.disp.pixel px py⟩

/-- The columns `c` of one sprite row, listed in `cs` (R151, the inner loop). -/
def blitCols (row : Byte) (x0 py : Nat) : List Nat → Blit → Blit
  | [], b => b
  | c :: cs, b => blitCols row x0 py cs (if spriteBit row c then blitPixel b (wrapX (x0 + c)) py else b)

/-- The rows of a sprite from row `y` on (R151, the outer loop). -/
def blitRows (x0 : Nat) : Nat → List Byte → Blit → Blit
  | _, [], b => b
  | y, row :: rows, b => blitRows x0 (y + 1) rows (blitCols row x0 (wrapY y) (List.range 8) b)

/-- The whole draw of `N` rows read from `I` on at (V[x], V[y]), the coordinates read first (R151). -/
def State.blit (s : State) (x y n : Nibble) : Blit :=
  blitRows (s.reg x).toNat (s.reg y).toNat (s.mem.readMany s.i n.toNat) ⟨s.disp, false⟩

end Sys2Proof.Machine
end

