-- ==== Sys2Proof/Machine/Alu.lean ====
section
/-! DEFINITION. Register loads, the 8-bit ALU and the random instruction (42_alu.md). Sources are read first, the result is written
next, the flag last (R120, D11: log 16). -/

namespace Sys2Proof.Machine

/-- `6XKK` (R121). -/
def execLdImm (x : Nibble) (kk : Byte) (s : State) : Result := .next (s.setReg x kk)

/-- `7XKK` (R122): no carry flag. -/
def execAddImm (x : Nibble) (kk : Byte) (s : State) : Result := .next (s.setReg x (s.reg x + kk))

/-- `8XY0` (R123). -/
def execLdReg (x y : Nibble) (s : State) : Result := .next (s.setReg x (s.reg y))

/-- `8XY1` (R124): `VF` untouched (D12: log 17). -/
def execOrReg (x y : Nibble) (s : State) : Result := .next (s.setReg x (s.reg x ||| s.reg y))

/-- `8XY2` (R125): `VF` untouched (D12: log 17). -/
def execAndReg (x y : Nibble) (s : State) : Result := .next (s.setReg x (s.reg x &&& s.reg y))

/-- `8XY3` (R126): `VF` untouched (D12: log 17). -/
def execXorReg (x y : Nibble) (s : State) : Result := .next (s.setReg x (s.reg x ^^^ s.reg y))

/-- `8XY4` (R127). -/
def execAddReg (x y : Nibble) (s : State) : Result :=
  .next (s.setRegFlag x ((sum9 (s.reg x) (s.reg y)).setWidth 8) (carryOut (s.reg x) (s.reg y)))

/-- `8XY5` (R128). -/
def execSubReg (x y : Nibble) (s : State) : Result :=
  .next (s.setRegFlag x (s.reg x - s.reg y) (notBorrow (s.reg x) (s.reg y)))

/-- `8XY6` (R129): `V[X]` is shifted in place, `Y` is ignored (D10: log 15). -/
def execShr (x _y : Nibble) (s : State) : Result :=
  .next (s.setRegFlag x (s.reg x >>> 1) (droppedRight (s.reg x)))

/-- `8XY7` (R130; flag D13: log 18). -/
def execSubnReg (x y : Nibble) (s : State) : Result :=
  .next (s.setRegFlag x (s.reg y - s.reg x) (notBorrow (s.reg y) (s.reg x)))

/-- `8XYE` (R131): `V[X]` is shifted in place, `Y` is ignored (D10: log 15). -/
def execShl (x _y : Nibble) (s : State) : Result :=
  .next (s.setRegFlag x (s.reg x <<< 1) (droppedLeft (s.reg x)))

/-- `CXKK` (R133): the byte is the input `rnd` of this STEP (40_fetch_decode_execute.md R96; log 1). -/
def execRnd (x : Nibble) (kk : Byte) (s : State) : Result := .next (s.setReg x (s.port.rnd &&& kk))

end Sys2Proof.Machine
end

