-- ==== Sys2Proof/Machine/Control.lean ====
section
/-! DEFINITION. Control transfer (41_control_flow.md). On entry `PC` is already the instruction's address plus 2 (00_scope.md R13). -/

namespace Sys2Proof.Machine

/-- `1NNN` (R100). -/
def execJp (nnn : Imm12) (s : State) : Result := .next (s.setPc (zext16 nnn))

/-- `2NNN` (R101). With the stack full the whole instruction is ignored (D14: log 19). -/
def execCall (nnn : Imm12) (s : State) : Result :=
  if s.sp.toNat < Config.stackDepth then .next ((s.push s.pc).setPc (zext16 nnn))
  else .next (s.report .stackOverflow)

/-- `00EE` (R102). With the stack empty it is a no-op that is reported (D15: log 20). -/
def execRet (s : State) : Result :=
  if 0 < s.sp.toNat then .next s.popPc else .next (s.report .stackUnderflow)

/-- `BNNN` (R103): the 16-bit sum is not reduced (D27: log 29). -/
def execJpV0 (nnn : Imm12) (s : State) : Result := .next (s.setPc (zext16 nnn + zext16 (s.reg 0)))

/-- `3XKK` (R104). -/
def execSeImm (x : Nibble) (kk : Byte) (s : State) : Result := .next (s.skipIf (s.reg x == kk))

/-- `4XKK` (R105). -/
def execSneImm (x : Nibble) (kk : Byte) (s : State) : Result := .next (s.skipIf (s.reg x != kk))

/-- `5XY_` (R106): the low nibble is ignored (D7: log 12). -/
def execSeReg (x y _u : Nibble) (s : State) : Result := .next (s.skipIf (s.reg x == s.reg y))

/-- `9XY_` (R107): the low nibble is ignored (D7: log 12). -/
def execSneReg (x y _u : Nibble) (s : State) : Result := .next (s.skipIf (s.reg x != s.reg y))

end Sys2Proof.Machine
end

