-- ==== Sys2Proof/Machine/Draw.lean ====
section
/-! DEFINITION. The display instructions (44_display.md). -/

namespace Sys2Proof.Machine

/-- `00E0` (R150): `CHG` is set, `VF` is not touched. -/
def execCls (s : State) : Result := .next (s.showDisp Display.blank)

/-- `DXYN` (R151): the draw, then `V[15] <- hit`, `CHG <- 1`. -/
def execDrw (x y n : Nibble) (s : State) : Result :=
  .next ((s.showDisp (s.blit x y n).disp).setFlag (s.blit x y n).hit)

end Sys2Proof.Machine
end

