-- ==== Sys2Proof/Machine/Index.lean ====
section
/-! DEFINITION. The address register and the memory instructions (43_index_memory.md). None of the accesses changes `I` (R146, D18: log 23). -/

namespace Sys2Proof.Machine

/-- `ANNN` (R140). -/
def execLdI (nnn : Imm12) (s : State) : Result := .next (s.setI (zext16 nnn))

/-- `FX1E` (R141): a 16-bit addition, `VF` untouched (D16: log 21). -/
def execAddI (x : Nibble) (s : State) : Result := .next (s.setI (s.i + zext16 (s.reg x)))

/-- `FX29` (R142). -/
def execLdF (x : Nibble) (s : State) : Result := .next (s.setI (glyphAddr (s.reg x)))

/-- `FX33` (R143). -/
def execLdB (x : Nibble) (s : State) : Result :=
  .next (s.setMem (s.mem.writeMany s.i (decimalDigits (s.reg x))))

/-- `FX55` (R144). -/
def execStoreRegs (x : Nibble) (s : State) : Result :=
  .next (s.setMem (s.mem.writeMany s.i (s.regsTo x)))

/-- `FX65` (R145). -/
def execLoadRegs (x : Nibble) (s : State) : Result :=
  .next (s.setRegs (s.mem.readMany s.i (x.toNat + 1)))

end Sys2Proof.Machine
end

