-- ==== Sys2Proof/Machine/Keypad.lean ====
section
/-! DEFINITION. Keypad and timer instructions (45_keypad_timers.md). -/

namespace Sys2Proof.Machine

/-- `EX9E` (R160). -/
def execSkp (x : Nibble) (s : State) : Result := .next (s.skipIf (s.keyDown (keyIndex (s.reg x))))

/-- `EXA1` (R161). -/
def execSknp (x : Nibble) (s : State) : Result := .next (s.skipIf (!s.keyDown (keyIndex (s.reg x))))

/-- `FX0A` (R162): with no key pressed `PC` goes back to this instruction; else the lowest pressed key's index. -/
def execLdVxK (x : Nibble) (s : State) : Result :=
  match s.lowestKey with
  | none => .next s.rewind
  | some k => .next (s.setReg x (k.setWidth 8))

/-- `FX07` (R163). -/
def execLdVxDt (x : Nibble) (s : State) : Result := .next (s.setReg x s.dt)

/-- `FX15` (R164). -/
def execLdDtVx (x : Nibble) (s : State) : Result := .next (s.setDt (s.reg x))

/-- `FX18` (R165). -/
def execLdStVx (x : Nibble) (s : State) : Result := .next (s.setSt (s.reg x))

end Sys2Proof.Machine
end

