-- ==== Sys2Proof/Machine/Commands.lean ====
section
/-! DEFINITION. The six commands and the two observations of the interface (00_scope.md R7; 60_exceptions.md R178 to R182;
70_reset_and_hazards.md R190 to R193, R206). -/

namespace Sys2Proof.Machine

/-- The command's output is `r`. -/
def State.returns (s : State) (r : CommandResult) : State := { s with port := { s.port with result := r } }

/-- A newly built core with the parameter `FONT`: the state after RESET (10_state.md R37, R38; 20_memory.md R60). -/
def State.newCore (font : Font) : State := { State.reset with mem := Memory.withFont font, font := font }

/-- Every piece of the core's state at its reset value, the font table re-installed; the core keeps its parameter `FONT`, and the
interface, the random source among it, is left (70_reset_and_hazards.md R190; log 36). -/
def State.resetCore (s : State) : State := { State.newCore s.font with port := s.port }

/-- RESET (70_reset_and_hazards.md R190). -/
def resetCommand (s : State) : State := s.resetCore.returns .nothing

/-- The address of image byte 0 (20_memory.md R66). -/
def imageBase : Word := BitVec.ofNat 16 Config.progBase

/-- LOAD(bytes): the length test first, then RESET, then the copy (70_reset_and_hazards.md R192, D3: log 28). -/
def loadCommand (image : List Byte) (s : State) : State :=
  if image.length = 0 then s.returns (.load .empty)
  else if Config.maxImage < image.length then s.returns (.load .tooLarge)
  else (s.resetCore.setMem (s.resetCore.mem.writeMany imageBase image)).returns (.load .ok)

/-- A timer decremented when nonzero (60_exceptions.md R178). -/
def timerTick (t : Byte) : Byte := if 0 < t.toNat then t - 1 else t

/-- TICK (60_exceptions.md R178). -/
def tickCommand (s : State) : State := { s with dt := timerTick s.dt, st := timerTick s.st }.returns .nothing

/-- SETKEY(index, pressed): an index above 15 is ignored (60_exceptions.md R179). -/
def setKeyCommand (index : Nat) (pressed : Bool) (s : State) : State :=
  if index < Config.numKeys then { s with key := s.key.setIfInBounds index pressed }.returns .nothing
  else s.returns .nothing

/-- ACK_DISPLAY (60_exceptions.md R182). -/
def ackDisplayCommand (s : State) : State := { s with chg := false }.returns .nothing

/-- An unrecognised word changes nothing beyond the advance and is reported (40_fetch_decode_execute.md R95, D6: log 11). -/
def unrecognised (w : Word) (s : State) : Result := .next (s.report (.unrecognized w))

/-- STEP(rnd): fetch, advance, decode, execute exactly one instruction (40_fetch_decode_execute.md R90). -/
def stepCommand (rnd : Byte) (s : State) : Result :=
  match decodeWord s.fetchWord with
  | .ok i => exec i (s.beginStep rnd)
  | .error _ => unrecognised s.fetchWord (s.beginStep rnd)

/-- One command, one atomic transition (00_scope.md R7). -/
def perform (c : Command) (s : State) : Result :=
  match c with
  | .reset => .next (resetCommand s)
  | .load image => .next (loadCommand image s)
  | .step rnd => stepCommand rnd s
  | .tick => .next (tickCommand s)
  | .setKey index pressed => .next (setKeyCommand index pressed s)
  | .ackDisplay => .next (ackDisplayCommand s)

/-- A sequence of commands, one after the other (00_scope.md R7). -/
def performAll : List Command → State → Result
  | [], s => .next s
  | c :: cs, s =>
    match perform c s with
    | .next t => performAll cs t
    | .fault r => .fault r
    | .refused r => .refused r

/-- The display observation: `DISP` and `CHG` (60_exceptions.md R181). -/
def State.observe (s : State) : Display × Bool := (s.disp, s.chg)

/-- The pixel at row-major index `k` = y * 64 + x of the observation (60_exceptions.md R181). -/
def State.observePixel (s : State) (k : Nat) : Bool := s.disp.pixel (k % Config.dispW) (k / Config.dispW)

/-- The next command: the first of the schedule; with none scheduled, a STEP with a byte of the random source (log 2). -/
def State.nextCommand (s : State) : Command :=
  match s.port.schedule with
  | [] => .step (Config.randomByte s.port.draws)
  | c :: _ => c

/-- That command taken from the interface. -/
def State.takeCommand (s : State) : State :=
  match s.port.schedule with
  | [] => { s with port := { s.port with draws := s.port.draws + 1 } }
  | _ :: cs => { s with port := { s.port with schedule := cs } }

end Sys2Proof.Machine
end

