-- ==== Sys2Proof/Machine/Step.lean ====
section
/-! DEFINITION. One step of the machine: one command of the environment, performed on the core (00_scope.md R7). -/

namespace Sys2Proof.Machine

/-- One step: the next command is taken and performed. With nothing scheduled it is one STEP, that is one instruction. -/
def step (s : State) : Host.Outcome State Fault Refusal := perform s.nextCommand s.takeCommand

/-- `s` with the instruction word `w` (numbered as spec/opcode_table.json numbers it) at `PC`, high byte first, and nothing
scheduled before it, so that the very next step fetches and runs it (log 35). -/
def State.withFetchWord (s : State) (nbits w : Nat) : State :=
  { s with
    mem := (s.mem.write1 s.pc (highByte (BitVec.ofNat 16 (w % 2 ^ nbits)))).write1 (s.pc + 1)
      (lowByte (BitVec.ofNat 16 (w % 2 ^ nbits)))
    port := { s.port with schedule := [] } }

end Sys2Proof.Machine
end

