-- ==== Sys2Proof/Safety.lean ====
section
/-! DEFINITION. The invariant of the machine, what counts as a safe run, and the terms claims about instructions use: which registers an
instruction may write, when a skip is taken, which pixels a sprite covers. Written from the spec, not from the meanings. -/

namespace Sys2Proof

/-- The general registers an instruction may write: its destinations, and `VF` for the six flag writers (10_state.md R21, R22). -/
def Instr.mayWriteReg (i : Instr) (k : Nibble) : Bool :=
  match i with
  | .ldImm x _ | .addImm x _ | .rnd x _ => k == x
  | .ldReg x _ | .orReg x _ | .andReg x _ | .xorReg x _ => k == x
  | .addReg x _ | .subReg x _ | .shr x _ | .subnReg x _ | .shl x _ => k == x || k == 15
  | .ldVxDt x | .ldVxK x => k == x
  | .loadRegs x => k.toNat ≤ x.toNat
  | .drw _ _ _ => k == 15
  | .cls | .ret | .jp _ | .call _ | .jpV0 _ => false
  | .seImm _ _ | .sneImm _ _ | .seReg _ _ _ | .sneReg _ _ _ | .skp _ | .sknp _ => false
  | .ldI _ | .addI _ | .ldF _ | .ldB _ | .storeRegs _ | .ldDtVx _ | .ldStVx _ => false

/-- The six instructions that write `VF` as a flag (10_state.md R21, the table). -/
def Instr.writesFlag (i : Instr) : Bool :=
  match i with
  | .addReg _ _ | .subReg _ _ | .shr _ _ | .subnReg _ _ | .shl _ _ | .drw _ _ _ => true
  | .ldImm _ _ | .addImm _ _ | .rnd _ _ | .ldReg _ _ | .orReg _ _ | .andReg _ _ | .xorReg _ _ => false
  | .ldVxDt _ | .ldVxK _ | .loadRegs _ | .cls | .ret | .jp _ | .call _ | .jpV0 _ => false
  | .seImm _ _ | .sneImm _ _ | .seReg _ _ _ | .sneReg _ _ _ | .skp _ | .sknp _ => false
  | .ldI _ | .addI _ | .ldF _ | .ldB _ | .storeRegs _ | .ldDtVx _ | .ldStVx _ => false

/-- The instructions that set `PC` after the advance (10_state.md R24). -/
def Instr.setsPc (i : Instr) : Bool :=
  match i with
  | .jp _ | .call _ | .jpV0 _ | .ret | .ldVxK _ => true
  | .seImm _ _ | .sneImm _ _ | .seReg _ _ _ | .sneReg _ _ _ | .skp _ | .sknp _ => true
  | .addReg _ _ | .subReg _ _ | .shr _ _ | .subnReg _ _ | .shl _ _ | .drw _ _ _ => false
  | .ldImm _ _ | .addImm _ _ | .rnd _ _ | .ldReg _ _ | .orReg _ _ | .andReg _ _ | .xorReg _ _ => false
  | .ldVxDt _ | .loadRegs _ | .cls | .ldI _ | .addI _ | .ldF _ | .ldB _ | .storeRegs _ => false
  | .ldDtVx _ | .ldStVx _ => false

end Sys2Proof

namespace Sys2Proof.Machine

/-- The invariant: the stack pointer counts at most 16 entries (10_state.md R28) and memory is in its canonical form. -/
abbrev State.Inv (s : State) : Prop := s.sp.toNat ≤ Config.stackDepth ∧ s.mem.wf = true

/-- The command last performed reported no error condition (60_exceptions.md R172). -/
def State.clean (s : State) : Bool :=
  match s.port.result with
  | .nothing => true
  | .report .none => true
  | .report (.unrecognized _) => false
  | .report .stackOverflow => false
  | .report .stackUnderflow => false
  | .load .ok => true
  | .load .empty => false
  | .load .tooLarge => false

/-- A safe run of k steps: each answers a next state, with no error condition reported. -/
def safeRun : Nat → State → Bool
  | 0, _ => true
  | k + 1, s =>
    match step s with
    | .next t => t.clean && safeRun k t
    | .fault _ => false
    | .refused _ => false

/-- When a skip is taken in the state `s`; nothing for an instruction that is no skip (41_control_flow.md R104 to R108,
45_keypad_timers.md R160, R161, R166). -/
def skipTaken (i : Instr) (s : State) : Option Prop :=
  match i with
  | .seImm x kk => some (s.reg x = kk)
  | .sneImm x kk => some (s.reg x ≠ kk)
  | .seReg x y _ => some (s.reg x = s.reg y)
  | .sneReg x y _ => some (s.reg x ≠ s.reg y)
  | .skp x => some (s.key[(s.reg x).toNat % 16]'(Nat.mod_lt _ (by decide)) = true)
  | .sknp x => some (s.key[(s.reg x).toNat % 16]'(Nat.mod_lt _ (by decide)) = false)
  | .cls | .ret | .jp _ | .call _ | .jpV0 _ | .ldVxK _ | .drw _ _ _ => none
  | .addReg _ _ | .subReg _ _ | .shr _ _ | .subnReg _ _ | .shl _ _ => none
  | .ldImm _ _ | .addImm _ _ | .rnd _ _ | .ldReg _ _ | .orReg _ _ | .andReg _ _ | .xorReg _ _ => none
  | .ldVxDt _ | .loadRegs _ | .ldI _ | .addI _ | .ldF _ | .ldB _ | .storeRegs _ | .ldDtVx _ | .ldStVx _ => none

/-- A sprite bit equal to 1 of the draw `DXYN` in the state `s` falls on the pixel (px, py): bit 7 - c of the byte in the cell of
`I + r`, at column `V[x] + c` modulo 64 and row `V[y] + r` modulo 32 (44_display.md R151, R152; D4, D19, D20). -/
def spriteCovers (s : State) (x y n : Nibble) (px py : Nat) : Prop :=
  ∃ r c : Nat, r < n.toNat ∧ c < 8 ∧ (s.mem.byteAt ((s.i.toNat + r) % 4096)).getLsbD (7 - c) = true ∧
    px = ((s.reg x).toNat + c) % 64 ∧ py = ((s.reg y).toNat + r) % 32

end Sys2Proof.Machine
end

