-- ==== Sys2Proof/WellFormed.lean ====
section
/-! DEFINITION. What well-formed means here. The range of every operand is carried by its type (Syntax.lean), and every instruction
so written has a word and runs: no statement of the model needs a well-formedness premise on an instruction. Two
checks remain: the canonical encoding of the two instructions with an unexamined nibble, and the length of a program image. -/

namespace Sys2Proof

/-- The canonical form, the one an assembler emits: in classes 5 and 9 the unexamined low nibble is 0 (30_encoding.md R80).
The other forms run alike. -/
def Instr.canonical : Instr → Bool
  | .cls => true
  | .ret => true
  | .jp _ => true
  | .call _ => true
  | .seImm _ _ => true
  | .sneImm _ _ => true
  | .seReg _ _ u => u == 0
  | .ldImm _ _ => true
  | .addImm _ _ => true
  | .ldReg _ _ => true
  | .orReg _ _ => true
  | .andReg _ _ => true
  | .xorReg _ _ => true
  | .addReg _ _ => true
  | .subReg _ _ => true
  | .shr _ _ => true
  | .subnReg _ _ => true
  | .shl _ _ => true
  | .sneReg _ _ u => u == 0
  | .ldI _ => true
  | .jpV0 _ => true
  | .rnd _ _ => true
  | .drw _ _ _ => true
  | .skp _ => true
  | .sknp _ => true
  | .ldVxDt _ => true
  | .ldVxK _ => true
  | .ldDtVx _ => true
  | .ldStVx _ => true
  | .addI _ => true
  | .ldF _ => true
  | .ldB _ => true
  | .storeRegs _ => true
  | .loadRegs _ => true

/-- A program image that LOAD accepts: not empty and at most 3584 bytes (20_memory.md R66, 70_reset_and_hazards.md R192). -/
def imageOk (image : List Byte) : Bool :=
  1 ≤ image.length && image.length ≤ Config.maxImage

end Sys2Proof
end

