-- ==== Sys2Proof/Certificates/Slice0/Obligations.lean ====
section
/-! DEFINITION. The statements for the provers. In every statement about `exec`, `PC` is already the instruction's address plus 2
(00_scope.md R13), and "t = { s with … }" is the frame: every field not named is unchanged, every byte of memory among them. -/

open Sys2Proof Sys2Proof.Machine

/-- O1 (derived). For every instruction, with every operand at every value, and whatever bytes follow: decoding its two
bytes gives the instruction and leaves the bytes that follow. The fields a word encodes and the hardware ignores are
kept (log 6). -/
def Obligations.DecodeOfEncodeIsTheInstruction : Prop :=
  ∀ (i : Instr) (rest : List Byte), decode (encode i ++ rest) = .ok (i, rest)

/-- O2 (derived). For every word the decoder accepts, encoding the decoded instruction gives the word, bit for bit: no
bit of a word is dropped by decoding (the ignored fields are kept, log 6). -/
def Obligations.EncodeOfDecodedWordIsTheWord : Prop :=
  ∀ (w : Word) (i : Instr), decodeWord w = .ok i → encodeWord i = w

/-- O3 (derived). The table has 34 rows, and for every row and every word: the decoder gives an instruction with that
row's pattern iff (w & mask) = match. The table's masks rest on the spec's decisions D7, D8 and D9 (log 12, 13, 14). -/
def Obligations.DecoderFollowsTheOpcodeTable : Prop :=
  opcodeTable.length = 34 ∧
  ∀ r ∈ opcodeTable, ∀ w : Word, (∃ i, decodeWord w = .ok i ∧ i.pattern = r.pattern) ↔ w &&& r.mask = r.value

/-- O4 (derived). For every word, either the decoder gives an instruction, and exactly one row of the opcode table
matches the word and it bears that instruction's pattern; or the decoder rejects the word by name and no row
matches. That the rows are disjoint is the spec's own derivation. -/
def Obligations.EveryWordIsOneInstructionOrUnrecognised : Prop :=
  ∀ w : Word,
    (∃ i, decodeWord w = .ok i ∧ ∃ r ∈ opcodeTable, r.pattern = i.pattern ∧
      ∀ r' ∈ opcodeTable, (w &&& r'.mask = r'.value ↔ r' = r)) ∨
    (decodeWord w = .error (.unrecognized w) ∧ ∀ r ∈ opcodeTable, w &&& r.mask ≠ r.value)

/-- O5 (derived). A word is rejected iff it is of class 0 and is neither 0x00E0 nor 0x00EE, or of class 8 with low
nibble 8, 9, A, B, C, D or F, or of class E with a low byte other than 9E and A1, or of class F with a low byte
outside the nine listed. The list is the spec's derivation from its decisions D8 and D9 (log 13, 14). -/
def Obligations.UnrecognisedWordsAreTheListedOnes : Prop :=
  ∀ w : Word, decodeWord w = .error (.unrecognized w) ↔
    (w.toNat / 4096 = 0 ∧ w ≠ 0x00E0 ∧ w ≠ 0x00EE) ∨
    (w.toNat / 4096 = 8 ∧ w.toNat % 16 ∈ [0x8, 0x9, 0xA, 0xB, 0xC, 0xD, 0xF]) ∨
    (w.toNat / 4096 = 14 ∧ w.toNat % 256 ∉ [0x9E, 0xA1]) ∨
    (w.toNat / 4096 = 15 ∧ w.toNat % 256 ∉ [0x07, 0x0A, 0x15, 0x18, 0x1E, 0x29, 0x33, 0x55, 0x65])

/-- O6 (derived). One word or more of each family, written from the spec's examples: 8AB4, 2210, 00EE, 332A, 5121, 6A02,
C30F, A2F0, F255, D011, 00E0, E29E, F30A decode to their instructions, and 8128 and 01E0 are rejected. That 5121
decodes is the spec's decision D7 (log 12), that 01E0 is rejected D8 (log 13), that 8128 is rejected D9 (log 14). A
sanity statement. -/
def Obligations.WordsWrittenFromTheEncodingsDecode : Prop :=
  decodeWord 0x8AB4 = .ok (.addReg 0xA 0xB) ∧ decodeWord 0x2210 = .ok (.call 0x210) ∧ decodeWord 0x00EE = .ok .ret ∧
  decodeWord 0x332A = .ok (.seImm 0x3 0x2A) ∧ decodeWord 0x5121 = .ok (.seReg 0x1 0x2 0x1) ∧
  decodeWord 0x6A02 = .ok (.ldImm 0xA 0x02) ∧ decodeWord 0xC30F = .ok (.rnd 0x3 0x0F) ∧
  decodeWord 0xA2F0 = .ok (.ldI 0x2F0) ∧ decodeWord 0xF255 = .ok (.storeRegs 0x2) ∧
  decodeWord 0xD011 = .ok (.drw 0x0 0x1 0x1) ∧ decodeWord 0x00E0 = .ok .cls ∧ decodeWord 0xE29E = .ok (.skp 0x2) ∧
  decodeWord 0xF30A = .ok (.ldVxK 0x3) ∧ decodeWord 0x8128 = .error (.unrecognized 0x8128) ∧
  decodeWord 0x01E0 = .error (.unrecognized 0x01E0)

/-- O7 (derived). For every value of the parameter FONT: a newly built core, which is in the state after RESET (D2, log
32), has V, I, SP, STACK, DT, ST, DISP, KEY 0, PC 0x200, CHG 0 (the spec's decision D23, log 26), FONT[j] in the
memory cell 0x050 + j for j below 80 and 0 in every other cell. State.reset is that core for the default FONT (D24;
PRESUMED, log 7). -/
def Obligations.ResetLeavesTheListedValues : Prop :=
  (∀ font : Font, ∀ s : State, s = State.newCore font →
    (∀ k, s.reg k = 0) ∧ s.pc = 0x200 ∧ s.i = 0 ∧ s.sp = 0 ∧ (∀ k, (h : k < 16) → s.stack[k] = 0) ∧ s.dt = 0 ∧ s.st = 0 ∧
    (∀ px py, s.disp.pixel px py = false) ∧ s.chg = false ∧ (∀ k, s.keyDown k = false) ∧
    (∀ j, (h : j < 80) → s.mem.byteAt (0x050 + j) = font[j]) ∧
    (∀ a < 4096, a < 0x050 ∨ 0x0A0 ≤ a → s.mem.byteAt a = 0) ∧ s.font = font) ∧
  State.reset = State.newCore Font.customary

/-- O8 (derived). In the state after reset, whatever the parameter FONT, SP is at most 16 and memory is in its canonical
form; so in State.reset. -/
def Obligations.ResetMeetsTheInvariant : Prop :=
  State.reset.Inv ∧ ∀ font : Font, (State.newCore font).Inv

/-- O9 (derived). From every state with SP at most 16 and memory in canonical form, a step (any scheduled command, or a
STEP of any word) answers a state with SP at most 16 and memory in canonical form. That a call with a full stack
leaves SP at 16 is the spec's decision D14 (log 19). -/
def Obligations.EveryStepKeepsTheInvariant : Prop :=
  ∀ s t : State, s.Inv → step s = .next t → t.Inv

/-- O10 (derived). The canonical form of memory (the model's representation of the 4096 cells) is unique: two memories
in it that give the same byte in every cell are the same list. -/
def Obligations.EqualReadsMeanEqualMemories : Prop :=
  ∀ m m' : Memory, m.wf = true → m'.wf = true → (∀ a < 4096, m.byteAt a = m'.byteAt a) → m = m'

/-- O11 (stated R90). STEP(rnd) in any state: w is the word at PC; PC becomes PC + 2 mod 65536 and the report NONE; if w
decodes to an instruction, the outcome is that instruction's execution in that state; if not, the report is
UNRECOGNIZED(w) and nothing else happens; and in every case a next state results. -/
def Obligations.StepIsFetchAdvanceDecodeExecute : Prop :=
  ∀ (rnd : Byte) (s : State),
    (∀ i, decodeWord (s.mem.read2 s.pc) = .ok i → perform (.step rnd) s =
      exec i { s with pc := s.pc + 2, port := { s.port with rnd := rnd, result := .report .none } }) ∧
    (∀ e, decodeWord (s.mem.read2 s.pc) = .error e → perform (.step rnd) s =
      .next { s with pc := s.pc + 2, port := { s.port with rnd := rnd, result := .report (.unrecognized (s.mem.read2 s.pc)) } }) ∧
    ∃ t, perform (.step rnd) s = .next t

/-- O12 (derived). When the word at PC decodes to an instruction i: with nothing scheduled, step is exec i in the state
with PC advanced by 2, the report NONE, the input rnd the next byte of the random source and one byte more drawn;
with STEP(b) scheduled first, step is exec i in the state with PC advanced, the report NONE, the input rnd equal to
b and the command taken from the schedule. When it decodes to none, the step with nothing scheduled leaves that
state with the report UNRECOGNIZED(w), nothing but PC of the core changed (that the advance stands is the spec's
decision D6, log 11). (The schedule is the model's own form of the command sequence, log 1 and 2.) -/
def Obligations.StepRunsTheDecodedInstruction : Prop :=
  ∀ (s : State),
    (∀ i, decodeWord s.fetchWord = .ok i → s.port.schedule = [] → step s = exec i { s with
      pc := s.pc + 2
      port := ⟨[], Config.randomByte s.port.draws, s.port.draws + 1, .report .none⟩ }) ∧
    (∀ i b cs, decodeWord s.fetchWord = .ok i → s.port.schedule = .step b :: cs → step s = exec i { s with
      pc := s.pc + 2
      port := ⟨cs, b, s.port.draws, .report .none⟩ }) ∧
    (∀ e, decodeWord s.fetchWord = .error e → s.port.schedule = [] → step s = .next { s with
      pc := s.pc + 2
      port := ⟨[], Config.randomByte s.port.draws, s.port.draws + 1, .report (.unrecognized s.fetchWord)⟩ })

/-- O13 (derived). In every state, reachable or not, step answers a next state; so does every command, and so does every
instruction. -/
def Obligations.EveryStepAnswersANextState : Prop :=
  (∀ s : State, ∃ t, step s = .next t) ∧ (∀ (c : Command) (s : State), ∃ t, perform c s = .next t) ∧
  ∀ (i : Instr) (s : State), ∃ t, exec i s = .next t

/-- O14 (derived). Every STEP answers a state whose report is UNRECOGNIZED(w) iff the word decodes to no instruction;
STACK_OVERFLOW iff it is a call with SP not below 16; STACK_UNDERFLOW iff it is a return with SP = 0; and NONE in
every other case. The stack reports are the spec's decisions D14, D15, D28 (log 19, 20, 5). -/
def Obligations.StepReportsExactlyTheErrorConditions : Prop :=
  ∀ (rnd : Byte) (s : State), ∃ t, perform (.step rnd) s = .next t ∧
    t.port.result = .report (match decodeWord s.fetchWord with
      | .error _ => .unrecognized s.fetchWord
      | .ok (.call _) => if s.sp.toNat < 16 then .none else .stackOverflow
      | .ok .ret => if s.sp.toNat = 0 then .stackUnderflow else .none
      | .ok _ => .none)

/-- O15 (derived). For every sequence of commands and every state: the host's run of the model, for as many steps as
there are commands, from the state with that sequence scheduled, has the outcome of performing the commands one
after the other with nothing scheduled. So every environment's command sequence is a run of the model. (The schedule
is the model's form of the sequence, log 2.) -/
def Obligations.ScheduledCommandsRunInOrder : Prop :=
  ∀ (cs : List Command) (s : State),
    Host.Core.run Sys2Proof.core cs.length { s with port := { s.port with schedule := cs } } =
      performAll cs { s with port := { s.port with schedule := [] } }

/-- O16 (derived). For every I and every offset k the address I + k selects the cell (I + k) mod 4096; the word at PC is
256 times the byte in the cell of PC plus the byte in the cell of PC + 1, for every PC, odd or above 0xFFF. The
truncation is the spec's decision D4 (log 8). -/
def Obligations.AddressesAreTruncatedAndFetchIsBigEndian : Prop :=
  ∀ s : State, (∀ k, cellOf (s.ea k) = (s.i.toNat + k) % 4096) ∧
    s.fetchWord.toNat = 256 * (s.mem.byteAt (s.pc.toNat % 4096)).toNat + (s.mem.byteAt ((s.pc.toNat + 1) % 4096)).toNat

/-- O17 (derived). In canonical memory, FX55 with X at least 1 answers a state in which a fetch with PC equal to the
address stored to gives the word V[0] V[1]: self-modifying code is seen by the next fetch. -/
def Obligations.StoredBytesAreFetchedNext : Prop :=
  ∀ (x : Nibble) (s : State), s.mem.wf = true → 1 ≤ x.toNat →
    ∃ t, exec (.storeRegs x) s = .next t ∧ ({ t with pc := s.i } : State).fetchWord = wordOfBytes (s.reg 0) (s.reg 1)

/-- O18 (derived). For every instruction and state: a register that is neither a destination of the instruction nor VF
written as its flag is unchanged when exec answers a next state; after a flag writer (8XY4, 8XY5, 8XY6, 8XY7, 8XYE,
DXYN) VF is 0 or 1, also when X is F. That the logical instructions leave VF is the spec's decision D12 (log 17);
that the flag wins when X is F is D11 (log 16). -/
def Obligations.OnlyDestinationRegistersChange : Prop :=
  ∀ (i : Instr) (s t : State), exec i s = .next t →
    (∀ k, i.mayWriteReg k = false → t.reg k = s.reg k) ∧ (i.writesFlag = true → t.reg 15 = 0 ∨ t.reg 15 = 1)

/-- O19 (derived). For every instruction that is no jump, call, return, skip or FX0A: PC after exec is PC before it, the
advanced value. -/
def Obligations.OnlyControlInstructionsMovePcAfterTheAdvance : Prop :=
  ∀ (i : Instr) (s t : State), exec i s = .next t → i.setsPc = false → t.pc = s.pc

/-- O20 (derived). For every instruction other than ANNN, FX1E and FX29: I is unchanged when exec answers a next state,
DXYN, FX33, FX55 and FX65 among them (the spec's decision D18, log 23). -/
def Obligations.OnlyThreeInstructionsWriteTheAddressRegister : Prop :=
  ∀ (i : Instr) (s t : State), exec i s = .next t →
    (∀ nnn, i ≠ .ldI nnn) → (∀ x, i ≠ .addI x) → (∀ x, i ≠ .ldF x) → t.i = s.i

/-- O21 (derived). For every instruction: SP is unchanged unless it is a call or a return, and every stack entry is
unchanged unless it is a call; a call changes no entry but STACK[SP]. -/
def Obligations.OnlyCallAndReturnUseTheStack : Prop :=
  ∀ (i : Instr) (s t : State), exec i s = .next t →
    ((∀ nnn, i ≠ .call nnn) → t.stack = s.stack ∧ (i ≠ .ret → t.sp = s.sp)) ∧
    (∀ k, (h : k < 16) → k ≠ s.sp.toNat → t.stack[k] = s.stack[k])

/-- O22 (derived). For every instruction: DT is unchanged unless it is FX15, ST unless it is FX18, and all 16 key
latches always. -/
def Obligations.TimersAndKeysUnderInstructions : Prop :=
  ∀ (i : Instr) (s t : State), exec i s = .next t →
    ((∀ x, i ≠ .ldDtVx x) → t.dt = s.dt) ∧ ((∀ x, i ≠ .ldStVx x) → t.st = s.st) ∧ t.key = s.key

/-- O23 (derived). For every instruction: the display buffer and CHG are unchanged unless it is 00E0 or DXYN; those two
leave CHG = 1; and CHG once set stays set through every instruction. -/
def Obligations.OnlyClearAndDrawTouchTheDisplay : Prop :=
  ∀ (i : Instr) (s t : State), exec i s = .next t →
    (i ≠ .cls → (∀ x y n, i ≠ .drw x y n) → t.disp = s.disp ∧ t.chg = s.chg) ∧
    ((i = .cls ∨ ∃ x y n, i = .drw x y n) → t.chg = true) ∧ (s.chg = true → t.chg = true)

/-- O24 (derived). For every instruction other than FX33 and FX55: memory is the same data after exec, so every address
reads as before. -/
def Obligations.OnlyTwoInstructionsStoreToMemory : Prop :=
  ∀ (i : Instr) (s t : State), exec i s = .next t → (∀ x, i ≠ .ldB x) → (∀ x, i ≠ .storeRegs x) →
    t.mem = s.mem ∧ ∀ a, t.mem.byteAt a = s.mem.byteAt a

/-- O25 (derived). For every instruction: the scheduled commands, the input rnd and the count of drawn bytes are
unchanged; the output is unchanged too, but that a call may report STACK_OVERFLOW (D14, log 19) and a return
STACK_UNDERFLOW (D15, log 20). The core's parameter FONT (log 7) is unchanged. (The interface is the model's own
fields, log 1, 2, 5.) -/
def Obligations.InstructionsLeaveTheCommandInterface : Prop :=
  ∀ (i : Instr) (s t : State), exec i s = .next t →
    t.port = { s.port with result := t.port.result } ∧
    ((∀ nnn, i ≠ .call nnn) → i ≠ .ret → t.port = s.port) ∧
    (∀ nnn, i = .call nnn → t.port.result = s.port.result ∨ t.port.result = .report .stackOverflow) ∧
    (i = .ret → t.port.result = s.port.result ∨ t.port.result = .report .stackUnderflow) ∧ t.font = s.font

/-- O26 (stated R100). 1NNN completes in every state with PC = NNN, zero-extended to 16 bits, and no other change. -/
def Obligations.JumpSetsPc : Prop :=
  ∀ (nnn : Imm12) (s : State), ∃ t, exec (.jp nnn) s = .next t ∧ t.pc.toNat = nnn.toNat ∧ t = { s with pc := t.pc }

/-- O27 (derived). 2NNN completes in every state. With SP below 16, STACK[SP] = the advanced PC, all other entries are
as before, SP is one more and PC = NNN; with SP not below 16 nothing changes but the report STACK_OVERFLOW (the
spec's decision D14, log 19). -/
def Obligations.CallPushesTheAdvancedPcOrIsIgnored : Prop :=
  ∀ (nnn : Imm12) (s : State),
    ((h : s.sp.toNat < 16) → ∃ t, exec (.call nnn) s = .next t ∧ t.stack[s.sp.toNat] = s.pc ∧
      (∀ k, (hk : k < 16) → k ≠ s.sp.toNat → t.stack[k] = s.stack[k]) ∧ t.sp.toNat = s.sp.toNat + 1 ∧
      t.pc.toNat = nnn.toNat ∧ t = { s with stack := t.stack, sp := t.sp, pc := t.pc }) ∧
    (16 ≤ s.sp.toNat → exec (.call nnn) s = .next { s with port := { s.port with result := .report .stackOverflow } })

/-- O28 (derived). 00EE completes in every state. With SP above 0, SP is one less and nothing but SP and PC changes;
with SP in 1..16, PC = STACK[SP - 1]. With SP = 0 nothing changes but the report STACK_UNDERFLOW (the report is the
spec's decision D15, log 20). For SP above 16, which no run reaches, the value of PC is left free (log 10). -/
def Obligations.ReturnPopsPcOrIsReported : Prop :=
  ∀ s : State,
    (0 < s.sp.toNat → ∃ t, exec .ret s = .next t ∧ t.sp.toNat = s.sp.toNat - 1 ∧
      ((h : s.sp.toNat - 1 < 16) → t.pc = s.stack[s.sp.toNat - 1]) ∧ t = { s with sp := t.sp, pc := t.pc }) ∧
    (s.sp.toNat = 0 → exec .ret s = .next { s with port := { s.port with result := .report .stackUnderflow } })

/-- O29 (derived). With SP below 16, a call followed by a return leaves PC and SP as they were before the call (PC the
address after the call), and everything else too but the stack entry the call wrote, STACK[SP], which holds that PC;
every other entry is as before. -/
def Obligations.ReturnUndoesCall : Prop :=
  ∀ (nnn : Imm12) (s : State) (_ : s.sp.toNat < 16),
    ∃ t u, exec (.call nnn) s = .next t ∧ exec .ret t = .next u ∧ u = { s with stack := u.stack } ∧
      (∀ k, (h : k < 16) → k ≠ s.sp.toNat → u.stack[k] = s.stack[k]) ∧
      u.stack[s.sp.toNat] = s.pc

/-- O30 (derived). BNNN completes in every state with PC = NNN + V[0] as a number (it is at most 0x10FE and is not
reduced to 12 bits, the spec's decision D27, log 29), and no other change. -/
def Obligations.JumpViaV0AddsWithoutReduction : Prop :=
  ∀ (nnn : Imm12) (s : State), ∃ t, exec (.jpV0 nnn) s = .next t ∧
    t.pc.toNat = nnn.toNat + (s.reg 0).toNat ∧ t = { s with pc := t.pc }

/-- O31 (stated R104, R105). 3XKK completes in every state with PC + 2 mod 65536 iff V[X] = KK and PC unchanged
otherwise; 4XKK likewise iff V[X] differs from KK. Nothing else changes. -/
def Obligations.SkipsOnImmediate : Prop :=
  ∀ (x : Nibble) (kk : Byte) (s : State),
    exec (.seImm x kk) s = .next { s with pc := if s.reg x = kk then s.pc + 2 else s.pc } ∧
    exec (.sneImm x kk) s = .next { s with pc := if s.reg x ≠ kk then s.pc + 2 else s.pc }

/-- O32 (derived). For every low nibble u (not examined, the spec's decision D7, log 12): 5XYu completes in every state
with PC + 2 mod 65536 iff V[X] = V[Y] and PC unchanged otherwise; 9XYu likewise iff V[X] differs from V[Y]. Nothing
else changes. -/
def Obligations.SkipsOnRegister : Prop :=
  ∀ (x y u : Nibble) (s : State),
    exec (.seReg x y u) s = .next { s with pc := if s.reg x = s.reg y then s.pc + 2 else s.pc } ∧
    exec (.sneReg x y u) s = .next { s with pc := if s.reg x ≠ s.reg y then s.pc + 2 else s.pc }

/-- O33 (derived). The key selected is V[X] mod 16 (the spec's decision D21, log 27). EX9E completes in every state with
PC + 2 mod 65536 iff that key is pressed; EXA1 iff it is not. Nothing else changes. -/
def Obligations.SkipsOnKey : Prop :=
  ∀ (x : Nibble) (s : State) (k : Nat) (hk : k < 16), k = (s.reg x).toNat % 16 →
    exec (.skp x) s = .next { s with pc := if s.key[k] = true then s.pc + 2 else s.pc } ∧
    exec (.sknp x) s = .next { s with pc := if s.key[k] = false then s.pc + 2 else s.pc }

/-- O34 (derived). For each of the six skips and no other instruction: a STEP whose word decodes to it, in any state and
memory (so whatever the next two bytes hold), leaves PC = its address + 4 mod 65536 if its condition holds and + 2
if not, and changes nothing else of the core. The conditions are those of R104 to R107, R160 and R161; the key is
V[X] mod 16 (the spec's decision D21, log 27) and the low nibble of 5XY_ and 9XY_ is ignored (D7, log 12). -/
def Obligations.TakenSkipMovesFourUntakenTwo : Prop :=
  (∀ i s, (skipTaken i s).isSome = true ↔ i.pattern ∈ ["3XKK", "4XKK", "5XY0", "9XY0", "EX9E", "EXA1"]) ∧
  ∀ (rnd : Byte) (s : State) (i : Instr) (c : Prop), decodeWord s.fetchWord = .ok i → skipTaken i s = some c →
    ∃ t, perform (.step rnd) s = .next t ∧ t = { s with pc := t.pc, port := t.port } ∧
      (c → t.pc = s.pc + 4) ∧ (¬c → t.pc = s.pc + 2)

/-- O35 (stated R121, R122, R123). Each completes in every state: 6XKK with V[X] = KK, 7XKK with V[X] = (V[X] + KK) mod
256, 8XY0 with V[X] = the old V[Y]. Every other register, VF included unless X is F, and all other state are
unchanged. -/
def Obligations.LoadsAndAddImmediateLeaveTheFlag : Prop :=
  ∀ (x y : Nibble) (kk : Byte) (s : State),
    (∃ t, exec (.ldImm x kk) s = .next t ∧ t.reg x = kk ∧ (∀ k, k ≠ x → t.reg k = s.reg k) ∧ t = { s with v := t.v }) ∧
    (∃ t, exec (.addImm x kk) s = .next t ∧ (t.reg x).toNat = ((s.reg x).toNat + kk.toNat) % 256 ∧
      (∀ k, k ≠ x → t.reg k = s.reg k) ∧ t = { s with v := t.v }) ∧
    (∃ t, exec (.ldReg x y) s = .next t ∧ t.reg x = s.reg y ∧ (∀ k, k ≠ x → t.reg k = s.reg k) ∧ t = { s with v := t.v })

/-- O36 (derived). In every state, for every bit b below 8: 8XY1, 8XY2 and 8XY3 complete with bit b of V[X] the OR, AND,
XOR of the bits b of the old V[X] and V[Y]; every other register, VF included (the spec's decision D12, log 17), and
all other state are unchanged. -/
def Obligations.LogicInstructionsAreBitwise : Prop :=
  ∀ (x y : Nibble) (s : State),
    (∃ t, exec (.orReg x y) s = .next t ∧
      (∀ b < 8, (t.reg x).getLsbD b = ((s.reg x).getLsbD b || (s.reg y).getLsbD b)) ∧
      (∀ k, k ≠ x → t.reg k = s.reg k) ∧ t = { s with v := t.v }) ∧
    (∃ t, exec (.andReg x y) s = .next t ∧
      (∀ b < 8, (t.reg x).getLsbD b = ((s.reg x).getLsbD b && (s.reg y).getLsbD b)) ∧
      (∀ k, k ≠ x → t.reg k = s.reg k) ∧ t = { s with v := t.v }) ∧
    (∃ t, exec (.xorReg x y) s = .next t ∧
      (∀ b < 8, (t.reg x).getLsbD b = ((s.reg x).getLsbD b ^^ (s.reg y).getLsbD b)) ∧
      (∀ k, k ≠ x → t.reg k = s.reg k) ∧ t = { s with v := t.v })

/-- O37 (derived). 8XY4 completes in every state. With X other than F, V[X] = (V[X] + V[Y]) mod 256; in every case, X =
F included (where the result is lost, the spec's decision D11, log 16), VF = 1 if the sum exceeds 255, else 0. Every
other register and all other state are unchanged. -/
def Obligations.AddRegistersWithCarry : Prop :=
  ∀ (x y : Nibble) (s : State), ∃ t, exec (.addReg x y) s = .next t ∧
    (x ≠ 15 → (t.reg x).toNat = ((s.reg x).toNat + (s.reg y).toNat) % 256) ∧
    t.reg 15 = (if 255 < (s.reg x).toNat + (s.reg y).toNat then 1 else 0) ∧
    (∀ k, k ≠ x → k ≠ 15 → t.reg k = s.reg k) ∧ t = { s with v := t.v }

/-- O38 (derived). 8XY5 completes in every state. With X other than F, V[X] = (V[X] - V[Y]) mod 256; in every case, X =
F included (where the result is lost, the spec's decision D11, log 16), VF = 1 if V[X] >= V[Y] before, else 0. Every
other register and all other state are unchanged. -/
def Obligations.SubtractWithNotBorrow : Prop :=
  ∀ (x y : Nibble) (s : State), ∃ t, exec (.subReg x y) s = .next t ∧
    (x ≠ 15 → (t.reg x).toNat = (256 + (s.reg x).toNat - (s.reg y).toNat) % 256) ∧
    t.reg 15 = (if (s.reg y).toNat ≤ (s.reg x).toNat then 1 else 0) ∧
    (∀ k, k ≠ x → k ≠ 15 → t.reg k = s.reg k) ∧ t = { s with v := t.v }

/-- O39 (derived). 8XY7 completes in every state. With X other than F, V[X] = (V[Y] - V[X]) mod 256; in every case, X =
F included (where the result is lost, the spec's decision D11, log 16), VF = 1 if V[Y] >= V[X] before, else 0. Every
other register and all other state are unchanged. The polarity of this flag is the spec's decision D13 (log 18). -/
def Obligations.SubtractReversedWithNotBorrow : Prop :=
  ∀ (x y : Nibble) (s : State), ∃ t, exec (.subnReg x y) s = .next t ∧
    (x ≠ 15 → (t.reg x).toNat = (256 + (s.reg y).toNat - (s.reg x).toNat) % 256) ∧
    t.reg 15 = (if (s.reg x).toNat ≤ (s.reg y).toNat then 1 else 0) ∧
    (∀ k, k ≠ x → k ≠ 15 → t.reg k = s.reg k) ∧ t = { s with v := t.v }

/-- O40 (derived). 8XY6 completes in every state. With X other than F, V[X] = V[X] div 2; in every case, X = F included
(where the result is lost, the spec's decision D11, log 16), VF = 1 if bit 0 of V[X] was 1, else 0. Every other
register and all other state are unchanged. V[X] is shifted in place and Y is ignored (D10, log 15). -/
def Obligations.ShiftRightDropsBitZero : Prop :=
  ∀ (x y : Nibble) (s : State), ∃ t, exec (.shr x y) s = .next t ∧
    (x ≠ 15 → (t.reg x).toNat = (s.reg x).toNat / 2) ∧
    t.reg 15 = (if (s.reg x).toNat % 2 = 1 then 1 else 0) ∧
    (∀ k, k ≠ x → k ≠ 15 → t.reg k = s.reg k) ∧ t = { s with v := t.v }

/-- O41 (derived). 8XYE completes in every state. With X other than F, V[X] = 2 V[X] mod 256; in every case, X = F
included (where the result is lost, the spec's decision D11, log 16), VF = 1 if bit 7 of V[X] was 1, else 0. Every
other register and all other state are unchanged. V[X] is shifted in place and Y is ignored (D10, log 15). -/
def Obligations.ShiftLeftDropsBitSeven : Prop :=
  ∀ (x y : Nibble) (s : State), ∃ t, exec (.shl x y) s = .next t ∧
    (x ≠ 15 → (t.reg x).toNat = 2 * (s.reg x).toNat % 256) ∧
    t.reg 15 = (if 128 ≤ (s.reg x).toNat then 1 else 0) ∧
    (∀ k, k ≠ x → k ≠ 15 → t.reg k = s.reg k) ∧ t = { s with v := t.v }

/-- O42 (derived). CXKK completes in every state with V[X] = rnd & KK, rnd the input of the STEP, and nothing else
changed. A STEP(b) whose word decodes to it gives b & KK for every byte b; with nothing scheduled the byte is the
next of the random source, a free value (log 1). -/
def Obligations.RandomIsTheInputByteMasked : Prop :=
  ∀ (x : Nibble) (kk : Byte) (s : State),
    (∃ t, exec (.rnd x kk) s = .next t ∧ t.reg x = s.port.rnd &&& kk ∧ (∀ k, k ≠ x → t.reg k = s.reg k) ∧
      t = { s with v := t.v }) ∧
    (decodeWord s.fetchWord = .ok (.rnd x kk) →
      (∀ b, ∃ t, perform (.step b) s = .next t ∧ t.reg x = b &&& kk) ∧
      (s.port.schedule = [] → ∃ t, step s = .next t ∧ t.reg x = Config.randomByte s.port.draws &&& kk))

/-- O43 (stated R140). ANNN completes in every state with I = NNN, zero-extended to 16 bits, and no other change. -/
def Obligations.LoadAddressRegister : Prop :=
  ∀ (nnn : Imm12) (s : State), ∃ t, exec (.ldI nnn) s = .next t ∧ t.i.toNat = nnn.toNat ∧ t = { s with i := t.i }

/-- O44 (derived). FX1E completes in every state with I = (I + V[X]) mod 65536 (the spec's decision D16, log 21), every
register, VF included (D12, log 17), and all other state unchanged. -/
def Obligations.AddToAddressRegisterCarriesThrough16Bits : Prop :=
  ∀ (x : Nibble) (s : State), ∃ t, exec (.addI x) s = .next t ∧
    t.i.toNat = (s.i.toNat + (s.reg x).toNat) % 65536 ∧ t = { s with i := t.i }

/-- O45 (derived). FX29 completes in every state with I = 0x050 + 5 V[X] for all 256 values of V[X] (above 15 the spec's
decision D17, log 22), and no other change. -/
def Obligations.GlyphAddressUsesTheWholeByte : Prop :=
  ∀ (x : Nibble) (s : State), ∃ t, exec (.ldF x) s = .next t ∧ t.i.toNat = 0x50 + 5 * (s.reg x).toNat ∧
    t = { s with i := t.i }

/-- O46 (derived). In canonical memory FX33 completes with three digits h, t, u, each at most 9, with 100 h + 10 t + u =
V[X], in the cells of I, I + 1, I + 2 (modulo 4096, D4, log 8); every other cell reads as before and nothing but
memory changes (I unchanged, D18, log 23). -/
def Obligations.DecimalDigitsAreStored : Prop :=
  ∀ (x : Nibble) (s : State), s.mem.wf = true → ∃ t, exec (.ldB x) s = .next t ∧
    (∃ h d u : Nat, h ≤ 9 ∧ d ≤ 9 ∧ u ≤ 9 ∧ 100 * h + 10 * d + u = (s.reg x).toNat ∧
      (t.mem.byteAt (cellOf (s.ea 0))).toNat = h ∧ (t.mem.byteAt (cellOf (s.ea 1))).toNat = d ∧
      (t.mem.byteAt (cellOf (s.ea 2))).toNat = u) ∧
    (∀ a, (∀ k < 3, a ≠ cellOf (s.ea k)) → t.mem.byteAt a = s.mem.byteAt a) ∧ t = { s with mem := t.mem }

/-- O47 (derived). In canonical memory FX55 completes with V[k] in the cell of I + k for every k up to X (modulo 4096,
D4, log 8); every other cell reads as before and nothing but memory changes (I unchanged, D18, log 23). -/
def Obligations.RegistersAreStoredFromI : Prop :=
  ∀ (x : Nibble) (s : State), s.mem.wf = true → ∃ t, exec (.storeRegs x) s = .next t ∧
    (∀ k : Nibble, k.toNat ≤ x.toNat → t.mem.byteAt (cellOf (s.ea k.toNat)) = s.reg k) ∧
    (∀ a, (∀ k ≤ x.toNat, a ≠ cellOf (s.ea k)) → t.mem.byteAt a = s.mem.byteAt a) ∧ t = { s with mem := t.mem }

/-- O48 (derived). FX65 completes in every state with V[k] = the byte in the cell of I + k for every k up to X (VF too
when X is F), every register above X and all other state unchanged (I unchanged, D18, log 23; cells modulo 4096, D4,
log 8). -/
def Obligations.RegistersAreLoadedFromI : Prop :=
  ∀ (x : Nibble) (s : State), ∃ t, exec (.loadRegs x) s = .next t ∧
    (∀ k : Nibble, k.toNat ≤ x.toNat → t.reg k = s.mem.byteAt (cellOf (s.ea k.toNat))) ∧
    (∀ k : Nibble, x.toNat < k.toNat → t.reg k = s.reg k) ∧ t = { s with v := t.v }

/-- O49 (derived). From canonical memory: after FX55, in any state that has the memory and the I it left, FX65 with the
same X completes with V[k] the value stored, for every k up to X, and the registers above X as they are in that
state. -/
def Obligations.LoadAfterStoreRestoresTheRegisters : Prop :=
  ∀ (x : Nibble) (s t r : State), s.mem.wf = true → exec (.storeRegs x) s = .next t → r.mem = t.mem → r.i = t.i →
    ∃ u, exec (.loadRegs x) r = .next u ∧ (∀ k : Nibble, k.toNat ≤ x.toNat → u.reg k = s.reg k) ∧
      ∀ k : Nibble, x.toNat < k.toNat → u.reg k = r.reg k

/-- O50 (stated R150). 00E0 completes in every state with every pixel 0, CHG = 1 (also when the buffer was blank), and
all other state, VF included, unchanged. -/
def Obligations.ClearBlanksTheDisplay : Prop :=
  ∀ s : State, ∃ t, exec .cls s = .next t ∧ (∀ px < 64, ∀ py < 32, t.disp.pixel px py = false) ∧ t.chg = true ∧
    t = { s with disp := t.disp, chg := t.chg }

/-- O51 (derived). In every state DXYN, executed by the spec's two loops, completes with each of the 2048 pixels
inverted iff a sprite bit equal to 1 falls on it (bit 7 leftmost, D20, log 25; wrapped per pixel, coordinates read
first, D19, log 24; rows read modulo 4096, D4, log 8); VF = 1 if a covered pixel was lit, else 0; CHG = 1; every
other register and all other state unchanged. -/
def Obligations.DrawInvertsExactlyTheCoveredPixels : Prop :=
  ∀ (x y n : Nibble) (s : State), ∃ t, exec (.drw x y n) s = .next t ∧
    (∀ px < 64, ∀ py < 32,
      (t.disp.pixel px py = true ↔ Xor (s.disp.pixel px py = true) (spriteCovers s x y n px py))) ∧
    ((∃ px py, spriteCovers s x y n px py ∧ s.disp.pixel px py = true) → t.reg 15 = 1) ∧
    ((¬∃ px py, spriteCovers s x y n px py ∧ s.disp.pixel px py = true) → t.reg 15 = 0) ∧
    t.chg = true ∧ (∀ k, k ≠ 15 → t.reg k = s.reg k) ∧ t = { s with disp := t.disp, chg := t.chg, v := t.v }

/-- O52 (derived). For every draw: executed again with the registers of the first (the same sprite at the same position,
also when X or Y is F), the display is what it was before, and VF after the second draw is 1 iff a covered pixel was
0 before the first (the table row's collision rule, conflict C7). -/
def Obligations.DrawTwiceRestoresTheDisplay : Prop :=
  ∀ (x y n : Nibble) (s : State), ∃ t u, exec (.drw x y n) s = .next t ∧
    exec (.drw x y n) { t with v := s.v } = .next u ∧ u.disp = s.disp ∧
    (u.reg 15 = 1 ↔ ∃ px py, spriteCovers s x y n px py ∧ s.disp.pixel px py = false)

/-- O53 (stated R162). With no key pressed FX0A completes with PC - 2 mod 65536 and nothing else changed, and a STEP of
it leaves the core's whole state as it was; with k the lowest pressed key it completes with V[X] = k and nothing
else changed. -/
def Obligations.WaitForKeyRewindsOrTakesTheLowestKey : Prop :=
  (∀ (x : Nibble) (s : State), (∀ k, (h : k < 16) → s.key[k] = false) →
    exec (.ldVxK x) s = .next { s with pc := s.pc - 2 } ∧
    ∀ rnd, decodeWord s.fetchWord = .ok (.ldVxK x) → ∃ t, perform (.step rnd) s = .next t ∧ t = { s with port := t.port }) ∧
  (∀ (x : Nibble) (s : State) (k : Nat) (hk : k < 16), s.key[k] = true → (∀ j, (h : j < k) → s.key[j] = false) →
    ∃ t, exec (.ldVxK x) s = .next t ∧ (t.reg x).toNat = k ∧ (∀ j, j ≠ x → t.reg j = s.reg j) ∧ t = { s with v := t.v })

/-- O54 (derived). With FX0A at PC and no key pressed, any sequence of STEP commands, with any input bytes, completes
and leaves every piece of the core's state unchanged. -/
def Obligations.WaitingForAKeyChangesNothing : Prop :=
  ∀ (rnds : List Byte) (x : Nibble) (s : State), decodeWord s.fetchWord = .ok (.ldVxK x) →
    (∀ k, (h : k < 16) → s.key[k] = false) →
    ∃ t, performAll (rnds.map .step) s = .next t ∧ t = { s with port := t.port }

/-- O55 (stated R163, R164, R165). FX07 completes in every state with V[X] = DT and nothing else changed; FX15 with DT =
V[X] and nothing else changed; FX18 with ST = V[X] and nothing else changed. -/
def Obligations.TimerInstructionsCopy : Prop :=
  ∀ (x : Nibble) (s : State),
    (∃ t, exec (.ldVxDt x) s = .next t ∧ t.reg x = s.dt ∧ (∀ k, k ≠ x → t.reg k = s.reg k) ∧ t = { s with v := t.v }) ∧
    exec (.ldDtVx x) s = .next { s with dt := s.reg x } ∧ exec (.ldStVx x) s = .next { s with st := s.reg x }

/-- O56 (stated R178). TICK completes in every state: each timer is one less if nonzero and stays 0 if 0, and nothing
else of the core changes; n TICKs in a row leave each timer at its value minus n, floored at 0, and nothing else of
the core changed. -/
def Obligations.TickDecrementsBothTimersToZero : Prop :=
  (∀ s : State, ∃ t, perform .tick s = .next t ∧ t.dt.toNat = s.dt.toNat - 1 ∧ t.st.toNat = s.st.toNat - 1 ∧
    t = { s with dt := t.dt, st := t.st, port := t.port } ∧ t.port = { s.port with result := .nothing }) ∧
  (∀ (n : Nat) (s : State), ∃ t, performAll (List.replicate n .tick) s = .next t ∧ t.dt.toNat = s.dt.toNat - n ∧
    t.st.toNat = s.st.toNat - n ∧ t = { s with dt := t.dt, st := t.st, port := t.port })

/-- O57 (stated R179, R182). For index at most 15 SETKEY completes with KEY[index] = pressed and every other key and all
other state of the core unchanged; for any larger index nothing of the core changes. ACK_DISPLAY completes in every
state with CHG = 0 and no other change of the core. Both return nothing. -/
def Obligations.SetKeyAndAckDisplayWriteOneBitOrNothing : Prop :=
  ∀ (index : Nat) (pressed : Bool) (s : State),
    ((h : index ≤ 15) → ∃ t, perform (.setKey index pressed) s = .next t ∧ t.key[index] = pressed ∧
      (∀ k, (hk : k < 16) → k ≠ index → t.key[k] = s.key[k]) ∧
      t = { s with key := t.key, port := { s.port with result := .nothing } }) ∧
    (15 < index → perform (.setKey index pressed) s = .next { s with port := { s.port with result := .nothing } }) ∧
    perform .ackDisplay s = .next { s with chg := false, port := { s.port with result := .nothing } }

/-- O58 (derived). RESET completes in every state with every piece of the core's state at its reset value (CHG = 0 is
the spec's decision D23, log 26), the core's parameter FONT installed in memory and kept (D24, log 7); the command
interface, the random source among it, is left but for the empty result (log 36). So RESET from any state of a core,
once or twice, gives one core state. -/
def Obligations.ResetForgetsTheStateBefore : Prop :=
  ∀ s : State,
    perform .reset s = .next { State.newCore s.font with port := { s.port with result := .nothing } } ∧
    performAll [.reset, .reset] s = perform .reset s

/-- O59 (derived). LOAD of 1 to 3584 bytes completes with LOAD_OK, image byte k in cell 0x200 + k, every other cell at
its reset contents (those of a new core with the same FONT), and all other state of the core at its reset value
(that LOAD resets is the spec's decision D3, log 28). LOAD of 0 bytes gives LOAD_EMPTY and of more than 3584
LOAD_TOO_LARGE (names D28, log 5), and the core's state is unchanged. -/
def Obligations.LoadCopiesTheImageOrChangesNothing : Prop :=
  ∀ (image : List Byte) (s : State),
    (1 ≤ image.length → image.length ≤ 3584 → ∃ t, perform (.load image) s = .next t ∧
      (∀ k, (h : k < image.length) → t.mem.byteAt (0x200 + k) = image[k]) ∧
      (∀ a, a < 0x200 ∨ 0x200 + image.length ≤ a → t.mem.byteAt a = (State.newCore s.font).mem.byteAt a) ∧
      t = { State.newCore s.font with mem := t.mem, port := { s.port with result := .load .ok } }) ∧
    (image.length = 0 → perform (.load image) s = .next { s with port := { s.port with result := .load .empty } }) ∧
    (3584 < image.length → perform (.load image) s = .next { s with port := { s.port with result := .load .tooLarge } })

/-- O60 (derived). For every accepted image and any two prior states of cores with one FONT: LOAD from the first, RESET
then LOAD from the second, and LOAD on a newly built core with that FONT (in the state after RESET, the spec's
decision D2, log 32) complete in states that differ at most in the command interface. -/
def Obligations.LoadIsTheSameFromEveryState : Prop :=
  ∀ (image : List Byte) (s s' : State), imageOk image = true → s.font = s'.font →
    ∃ t t' f, performAll [.load image] s = .next t ∧ performAll [.reset, .load image] s' = .next t' ∧
      performAll [.load image] (State.newCore s.font) = .next f ∧ t' = { t with port := t'.port } ∧ f = { t with port := f.port }
end

