-- ==== Sys2Proof/Laws/Decode.lean ====
section
/-! SUPPORT. The fields of an encoded word, and a word put together again from its fields. -/

namespace Sys2Proof

@[simp] theorem fieldClass_formatNNN (c : Nibble) (nnn : Imm12) : fieldClass (formatNNN c nnn) = c := by
  ext i hi
  simp [fieldClass, formatNNN, BitVec.getElem_extractLsb']
  grind

@[simp] theorem fieldNNN_formatNNN (c : Nibble) (nnn : Imm12) : fieldNNN (formatNNN c nnn) = nnn := by
  ext i hi
  simp [fieldNNN, formatNNN, BitVec.getElem_extractLsb']
  grind

@[simp] theorem fieldClass_formatXKK (c x : Nibble) (kk : Byte) : fieldClass (formatXKK c x kk) = c := by
  ext i hi
  simp [fieldClass, formatXKK, BitVec.getElem_extractLsb']
  grind

@[simp] theorem fieldX_formatXKK (c x : Nibble) (kk : Byte) : fieldX (formatXKK c x kk) = x := by
  ext i hi
  simp [fieldX, formatXKK, BitVec.getElem_extractLsb']
  grind

@[simp] theorem fieldKK_formatXKK (c x : Nibble) (kk : Byte) : fieldKK (formatXKK c x kk) = kk := by
  ext i hi
  simp [fieldKK, formatXKK, BitVec.getElem_extractLsb']
  grind

@[simp] theorem fieldClass_formatXYN (c x y n : Nibble) : fieldClass (formatXYN c x y n) = c := by
  ext i hi
  simp [fieldClass, formatXYN, BitVec.getElem_extractLsb']
  grind

@[simp] theorem fieldX_formatXYN (c x y n : Nibble) : fieldX (formatXYN c x y n) = x := by
  ext i hi
  simp [fieldX, formatXYN, BitVec.getElem_extractLsb']
  grind

@[simp] theorem fieldY_formatXYN (c x y n : Nibble) : fieldY (formatXYN c x y n) = y := by
  ext i hi
  simp [fieldY, formatXYN, BitVec.getElem_extractLsb']
  grind

@[simp] theorem fieldN_formatXYN (c x y n : Nibble) : fieldN (formatXYN c x y n) = n := by
  ext i hi
  simp [fieldN, formatXYN, BitVec.getElem_extractLsb']
  grind

/-- A word is its class and its address operand. -/
theorem formatNNN_fields (w : Word) : formatNNN (fieldClass w) (fieldNNN w) = w := by
  ext i hi
  simp [fieldClass, fieldNNN, formatNNN]
  grind

/-- A word is its class, its X and its low byte. -/
theorem formatXKK_fields (w : Word) : formatXKK (fieldClass w) (fieldX w) (fieldKK w) = w := by
  ext i hi
  simp [fieldClass, fieldX, fieldKK, formatXKK]
  grind

/-- A word is its four nibbles. -/
theorem formatXYN_fields (w : Word) : formatXYN (fieldClass w) (fieldX w) (fieldY w) (fieldN w) = w := by
  ext i hi
  simp [fieldClass, fieldX, fieldY, fieldN, formatXYN]
  grind

@[simp] theorem highByte_wordOfBytes (hi lo : Byte) : highByte (wordOfBytes hi lo) = hi := by
  ext i h
  simp [highByte, wordOfBytes, BitVec.getElem_extractLsb']
  grind

@[simp] theorem lowByte_wordOfBytes (hi lo : Byte) : lowByte (wordOfBytes hi lo) = lo := by
  ext i h
  simp [lowByte, wordOfBytes, BitVec.getElem_extractLsb']
  grind

@[simp] theorem wordOfBytes_bytes (w : Word) : wordOfBytes (highByte w) (lowByte w) = w := by
  ext i h
  simp [highByte, lowByte, wordOfBytes]
  grind

end Sys2Proof
end

