-- ==== Sys2Proof/Laws/State.lean ====
section
/-! SUPPORT. For each update of the state, what each field holds after it: later proofs cite these and unfold no record update. -/

namespace Sys2Proof.Machine

variable (s : State)

/-! ## setReg -/

@[simp] theorem State.setReg_v (x : Nibble) (b : Byte) : (s.setReg x b).v = s.v.set x.toNat b x.isLt := rfl
@[simp] theorem State.setReg_pc (x : Nibble) (b : Byte) : (s.setReg x b).pc = s.pc := rfl
@[simp] theorem State.setReg_i (x : Nibble) (b : Byte) : (s.setReg x b).i = s.i := rfl
@[simp] theorem State.setReg_sp (x : Nibble) (b : Byte) : (s.setReg x b).sp = s.sp := rfl
@[simp] theorem State.setReg_stack (x : Nibble) (b : Byte) : (s.setReg x b).stack = s.stack := rfl
@[simp] theorem State.setReg_dt (x : Nibble) (b : Byte) : (s.setReg x b).dt = s.dt := rfl
@[simp] theorem State.setReg_st (x : Nibble) (b : Byte) : (s.setReg x b).st = s.st := rfl
@[simp] theorem State.setReg_disp (x : Nibble) (b : Byte) : (s.setReg x b).disp = s.disp := rfl
@[simp] theorem State.setReg_chg (x : Nibble) (b : Byte) : (s.setReg x b).chg = s.chg := rfl
@[simp] theorem State.setReg_key (x : Nibble) (b : Byte) : (s.setReg x b).key = s.key := rfl
@[simp] theorem State.setReg_mem (x : Nibble) (b : Byte) : (s.setReg x b).mem = s.mem := rfl
@[simp] theorem State.setReg_font (x : Nibble) (b : Byte) : (s.setReg x b).font = s.font := rfl
@[simp] theorem State.setReg_port (x : Nibble) (b : Byte) : (s.setReg x b).port = s.port := rfl

/-! ## setFlag -/

@[simp] theorem State.setFlag_v (f : Bool) : (s.setFlag f).v = s.v.set 15 (flagByte f) := rfl
@[simp] theorem State.setFlag_pc (f : Bool) : (s.setFlag f).pc = s.pc := rfl
@[simp] theorem State.setFlag_i (f : Bool) : (s.setFlag f).i = s.i := rfl
@[simp] theorem State.setFlag_sp (f : Bool) : (s.setFlag f).sp = s.sp := rfl
@[simp] theorem State.setFlag_stack (f : Bool) : (s.setFlag f).stack = s.stack := rfl
@[simp] theorem State.setFlag_dt (f : Bool) : (s.setFlag f).dt = s.dt := rfl
@[simp] theorem State.setFlag_st (f : Bool) : (s.setFlag f).st = s.st := rfl
@[simp] theorem State.setFlag_disp (f : Bool) : (s.setFlag f).disp = s.disp := rfl
@[simp] theorem State.setFlag_chg (f : Bool) : (s.setFlag f).chg = s.chg := rfl
@[simp] theorem State.setFlag_key (f : Bool) : (s.setFlag f).key = s.key := rfl
@[simp] theorem State.setFlag_mem (f : Bool) : (s.setFlag f).mem = s.mem := rfl
@[simp] theorem State.setFlag_font (f : Bool) : (s.setFlag f).font = s.font := rfl
@[simp] theorem State.setFlag_port (f : Bool) : (s.setFlag f).port = s.port := rfl

/-! ## setRegFlag -/

@[simp] theorem State.setRegFlag_v (x : Nibble) (b : Byte) (f : Bool) : (s.setRegFlag x b f).v = (s.v.set x.toNat b x.isLt).set 15 (flagByte f) := rfl
@[simp] theorem State.setRegFlag_pc (x : Nibble) (b : Byte) (f : Bool) : (s.setRegFlag x b f).pc = s.pc := rfl
@[simp] theorem State.setRegFlag_i (x : Nibble) (b : Byte) (f : Bool) : (s.setRegFlag x b f).i = s.i := rfl
@[simp] theorem State.setRegFlag_sp (x : Nibble) (b : Byte) (f : Bool) : (s.setRegFlag x b f).sp = s.sp := rfl
@[simp] theorem State.setRegFlag_stack (x : Nibble) (b : Byte) (f : Bool) : (s.setRegFlag x b f).stack = s.stack := rfl
@[simp] theorem State.setRegFlag_dt (x : Nibble) (b : Byte) (f : Bool) : (s.setRegFlag x b f).dt = s.dt := rfl
@[simp] theorem State.setRegFlag_st (x : Nibble) (b : Byte) (f : Bool) : (s.setRegFlag x b f).st = s.st := rfl
@[simp] theorem State.setRegFlag_disp (x : Nibble) (b : Byte) (f : Bool) : (s.setRegFlag x b f).disp = s.disp := rfl
@[simp] theorem State.setRegFlag_chg (x : Nibble) (b : Byte) (f : Bool) : (s.setRegFlag x b f).chg = s.chg := rfl
@[simp] theorem State.setRegFlag_key (x : Nibble) (b : Byte) (f : Bool) : (s.setRegFlag x b f).key = s.key := rfl
@[simp] theorem State.setRegFlag_mem (x : Nibble) (b : Byte) (f : Bool) : (s.setRegFlag x b f).mem = s.mem := rfl
@[simp] theorem State.setRegFlag_font (x : Nibble) (b : Byte) (f : Bool) : (s.setRegFlag x b f).font = s.font := rfl
@[simp] theorem State.setRegFlag_port (x : Nibble) (b : Byte) (f : Bool) : (s.setRegFlag x b f).port = s.port := rfl

/-! ## setPc -/

@[simp] theorem State.setPc_v (a : Word) : (s.setPc a).v = s.v := rfl
@[simp] theorem State.setPc_pc (a : Word) : (s.setPc a).pc = a := rfl
@[simp] theorem State.setPc_i (a : Word) : (s.setPc a).i = s.i := rfl
@[simp] theorem State.setPc_sp (a : Word) : (s.setPc a).sp = s.sp := rfl
@[simp] theorem State.setPc_stack (a : Word) : (s.setPc a).stack = s.stack := rfl
@[simp] theorem State.setPc_dt (a : Word) : (s.setPc a).dt = s.dt := rfl
@[simp] theorem State.setPc_st (a : Word) : (s.setPc a).st = s.st := rfl
@[simp] theorem State.setPc_disp (a : Word) : (s.setPc a).disp = s.disp := rfl
@[simp] theorem State.setPc_chg (a : Word) : (s.setPc a).chg = s.chg := rfl
@[simp] theorem State.setPc_key (a : Word) : (s.setPc a).key = s.key := rfl
@[simp] theorem State.setPc_mem (a : Word) : (s.setPc a).mem = s.mem := rfl
@[simp] theorem State.setPc_font (a : Word) : (s.setPc a).font = s.font := rfl
@[simp] theorem State.setPc_port (a : Word) : (s.setPc a).port = s.port := rfl

/-! ## advance -/

@[simp] theorem State.advance_v : (s.advance).v = s.v := rfl
@[simp] theorem State.advance_pc : (s.advance).pc = s.pc + 2 := rfl
@[simp] theorem State.advance_i : (s.advance).i = s.i := rfl
@[simp] theorem State.advance_sp : (s.advance).sp = s.sp := rfl
@[simp] theorem State.advance_stack : (s.advance).stack = s.stack := rfl
@[simp] theorem State.advance_dt : (s.advance).dt = s.dt := rfl
@[simp] theorem State.advance_st : (s.advance).st = s.st := rfl
@[simp] theorem State.advance_disp : (s.advance).disp = s.disp := rfl
@[simp] theorem State.advance_chg : (s.advance).chg = s.chg := rfl
@[simp] theorem State.advance_key : (s.advance).key = s.key := rfl
@[simp] theorem State.advance_mem : (s.advance).mem = s.mem := rfl
@[simp] theorem State.advance_font : (s.advance).font = s.font := rfl
@[simp] theorem State.advance_port : (s.advance).port = s.port := rfl

/-! ## rewind -/

@[simp] theorem State.rewind_v : (s.rewind).v = s.v := rfl
@[simp] theorem State.rewind_pc : (s.rewind).pc = s.pc - 2 := rfl
@[simp] theorem State.rewind_i : (s.rewind).i = s.i := rfl
@[simp] theorem State.rewind_sp : (s.rewind).sp = s.sp := rfl
@[simp] theorem State.rewind_stack : (s.rewind).stack = s.stack := rfl
@[simp] theorem State.rewind_dt : (s.rewind).dt = s.dt := rfl
@[simp] theorem State.rewind_st : (s.rewind).st = s.st := rfl
@[simp] theorem State.rewind_disp : (s.rewind).disp = s.disp := rfl
@[simp] theorem State.rewind_chg : (s.rewind).chg = s.chg := rfl
@[simp] theorem State.rewind_key : (s.rewind).key = s.key := rfl
@[simp] theorem State.rewind_mem : (s.rewind).mem = s.mem := rfl
@[simp] theorem State.rewind_font : (s.rewind).font = s.font := rfl
@[simp] theorem State.rewind_port : (s.rewind).port = s.port := rfl

/-! ## skipIf -/

@[simp] theorem State.skipIf_v (c : Bool) : (s.skipIf c).v = s.v := by cases c <;> rfl
@[simp] theorem State.skipIf_pc (c : Bool) : (s.skipIf c).pc = if c then s.pc + 2 else s.pc := by cases c <;> rfl
@[simp] theorem State.skipIf_i (c : Bool) : (s.skipIf c).i = s.i := by cases c <;> rfl
@[simp] theorem State.skipIf_sp (c : Bool) : (s.skipIf c).sp = s.sp := by cases c <;> rfl
@[simp] theorem State.skipIf_stack (c : Bool) : (s.skipIf c).stack = s.stack := by cases c <;> rfl
@[simp] theorem State.skipIf_dt (c : Bool) : (s.skipIf c).dt = s.dt := by cases c <;> rfl
@[simp] theorem State.skipIf_st (c : Bool) : (s.skipIf c).st = s.st := by cases c <;> rfl
@[simp] theorem State.skipIf_disp (c : Bool) : (s.skipIf c).disp = s.disp := by cases c <;> rfl
@[simp] theorem State.skipIf_chg (c : Bool) : (s.skipIf c).chg = s.chg := by cases c <;> rfl
@[simp] theorem State.skipIf_key (c : Bool) : (s.skipIf c).key = s.key := by cases c <;> rfl
@[simp] theorem State.skipIf_mem (c : Bool) : (s.skipIf c).mem = s.mem := by cases c <;> rfl
@[simp] theorem State.skipIf_font (c : Bool) : (s.skipIf c).font = s.font := by cases c <;> rfl
@[simp] theorem State.skipIf_port (c : Bool) : (s.skipIf c).port = s.port := by cases c <;> rfl

/-! ## setI -/

@[simp] theorem State.setI_v (a : Word) : (s.setI a).v = s.v := rfl
@[simp] theorem State.setI_pc (a : Word) : (s.setI a).pc = s.pc := rfl
@[simp] theorem State.setI_i (a : Word) : (s.setI a).i = a := rfl
@[simp] theorem State.setI_sp (a : Word) : (s.setI a).sp = s.sp := rfl
@[simp] theorem State.setI_stack (a : Word) : (s.setI a).stack = s.stack := rfl
@[simp] theorem State.setI_dt (a : Word) : (s.setI a).dt = s.dt := rfl
@[simp] theorem State.setI_st (a : Word) : (s.setI a).st = s.st := rfl
@[simp] theorem State.setI_disp (a : Word) : (s.setI a).disp = s.disp := rfl
@[simp] theorem State.setI_chg (a : Word) : (s.setI a).chg = s.chg := rfl
@[simp] theorem State.setI_key (a : Word) : (s.setI a).key = s.key := rfl
@[simp] theorem State.setI_mem (a : Word) : (s.setI a).mem = s.mem := rfl
@[simp] theorem State.setI_font (a : Word) : (s.setI a).font = s.font := rfl
@[simp] theorem State.setI_port (a : Word) : (s.setI a).port = s.port := rfl

/-! ## setDt -/

@[simp] theorem State.setDt_v (b : Byte) : (s.setDt b).v = s.v := rfl
@[simp] theorem State.setDt_pc (b : Byte) : (s.setDt b).pc = s.pc := rfl
@[simp] theorem State.setDt_i (b : Byte) : (s.setDt b).i = s.i := rfl
@[simp] theorem State.setDt_sp (b : Byte) : (s.setDt b).sp = s.sp := rfl
@[simp] theorem State.setDt_stack (b : Byte) : (s.setDt b).stack = s.stack := rfl
@[simp] theorem State.setDt_dt (b : Byte) : (s.setDt b).dt = b := rfl
@[simp] theorem State.setDt_st (b : Byte) : (s.setDt b).st = s.st := rfl
@[simp] theorem State.setDt_disp (b : Byte) : (s.setDt b).disp = s.disp := rfl
@[simp] theorem State.setDt_chg (b : Byte) : (s.setDt b).chg = s.chg := rfl
@[simp] theorem State.setDt_key (b : Byte) : (s.setDt b).key = s.key := rfl
@[simp] theorem State.setDt_mem (b : Byte) : (s.setDt b).mem = s.mem := rfl
@[simp] theorem State.setDt_font (b : Byte) : (s.setDt b).font = s.font := rfl
@[simp] theorem State.setDt_port (b : Byte) : (s.setDt b).port = s.port := rfl

/-! ## setSt -/

@[simp] theorem State.setSt_v (b : Byte) : (s.setSt b).v = s.v := rfl
@[simp] theorem State.setSt_pc (b : Byte) : (s.setSt b).pc = s.pc := rfl
@[simp] theorem State.setSt_i (b : Byte) : (s.setSt b).i = s.i := rfl
@[simp] theorem State.setSt_sp (b : Byte) : (s.setSt b).sp = s.sp := rfl
@[simp] theorem State.setSt_stack (b : Byte) : (s.setSt b).stack = s.stack := rfl
@[simp] theorem State.setSt_dt (b : Byte) : (s.setSt b).dt = s.dt := rfl
@[simp] theorem State.setSt_st (b : Byte) : (s.setSt b).st = b := rfl
@[simp] theorem State.setSt_disp (b : Byte) : (s.setSt b).disp = s.disp := rfl
@[simp] theorem State.setSt_chg (b : Byte) : (s.setSt b).chg = s.chg := rfl
@[simp] theorem State.setSt_key (b : Byte) : (s.setSt b).key = s.key := rfl
@[simp] theorem State.setSt_mem (b : Byte) : (s.setSt b).mem = s.mem := rfl
@[simp] theorem State.setSt_font (b : Byte) : (s.setSt b).font = s.font := rfl
@[simp] theorem State.setSt_port (b : Byte) : (s.setSt b).port = s.port := rfl

/-! ## setMem -/

@[simp] theorem State.setMem_v (m : Memory) : (s.setMem m).v = s.v := rfl
@[simp] theorem State.setMem_pc (m : Memory) : (s.setMem m).pc = s.pc := rfl
@[simp] theorem State.setMem_i (m : Memory) : (s.setMem m).i = s.i := rfl
@[simp] theorem State.setMem_sp (m : Memory) : (s.setMem m).sp = s.sp := rfl
@[simp] theorem State.setMem_stack (m : Memory) : (s.setMem m).stack = s.stack := rfl
@[simp] theorem State.setMem_dt (m : Memory) : (s.setMem m).dt = s.dt := rfl
@[simp] theorem State.setMem_st (m : Memory) : (s.setMem m).st = s.st := rfl
@[simp] theorem State.setMem_disp (m : Memory) : (s.setMem m).disp = s.disp := rfl
@[simp] theorem State.setMem_chg (m : Memory) : (s.setMem m).chg = s.chg := rfl
@[simp] theorem State.setMem_key (m : Memory) : (s.setMem m).key = s.key := rfl
@[simp] theorem State.setMem_mem (m : Memory) : (s.setMem m).mem = m := rfl
@[simp] theorem State.setMem_font (m : Memory) : (s.setMem m).font = s.font := rfl
@[simp] theorem State.setMem_port (m : Memory) : (s.setMem m).port = s.port := rfl

/-! ## push -/

@[simp] theorem State.push_v (a : Word) : (s.push a).v = s.v := rfl
@[simp] theorem State.push_pc (a : Word) : (s.push a).pc = s.pc := rfl
@[simp] theorem State.push_i (a : Word) : (s.push a).i = s.i := rfl
@[simp] theorem State.push_sp (a : Word) : (s.push a).sp = s.sp + 1 := rfl
@[simp] theorem State.push_stack (a : Word) : (s.push a).stack = s.stack.setIfInBounds s.sp.toNat a := rfl
@[simp] theorem State.push_dt (a : Word) : (s.push a).dt = s.dt := rfl
@[simp] theorem State.push_st (a : Word) : (s.push a).st = s.st := rfl
@[simp] theorem State.push_disp (a : Word) : (s.push a).disp = s.disp := rfl
@[simp] theorem State.push_chg (a : Word) : (s.push a).chg = s.chg := rfl
@[simp] theorem State.push_key (a : Word) : (s.push a).key = s.key := rfl
@[simp] theorem State.push_mem (a : Word) : (s.push a).mem = s.mem := rfl
@[simp] theorem State.push_font (a : Word) : (s.push a).font = s.font := rfl
@[simp] theorem State.push_port (a : Word) : (s.push a).port = s.port := rfl

/-! ## popPc -/

@[simp] theorem State.popPc_v : (s.popPc).v = s.v := rfl
@[simp] theorem State.popPc_pc : (s.popPc).pc = s.stackEntry (s.sp - 1).toNat := rfl
@[simp] theorem State.popPc_i : (s.popPc).i = s.i := rfl
@[simp] theorem State.popPc_sp : (s.popPc).sp = s.sp - 1 := rfl
@[simp] theorem State.popPc_stack : (s.popPc).stack = s.stack := rfl
@[simp] theorem State.popPc_dt : (s.popPc).dt = s.dt := rfl
@[simp] theorem State.popPc_st : (s.popPc).st = s.st := rfl
@[simp] theorem State.popPc_disp : (s.popPc).disp = s.disp := rfl
@[simp] theorem State.popPc_chg : (s.popPc).chg = s.chg := rfl
@[simp] theorem State.popPc_key : (s.popPc).key = s.key := rfl
@[simp] theorem State.popPc_mem : (s.popPc).mem = s.mem := rfl
@[simp] theorem State.popPc_font : (s.popPc).font = s.font := rfl
@[simp] theorem State.popPc_port : (s.popPc).port = s.port := rfl

/-! ## showDisp -/

@[simp] theorem State.showDisp_v (d : Display) : (s.showDisp d).v = s.v := rfl
@[simp] theorem State.showDisp_pc (d : Display) : (s.showDisp d).pc = s.pc := rfl
@[simp] theorem State.showDisp_i (d : Display) : (s.showDisp d).i = s.i := rfl
@[simp] theorem State.showDisp_sp (d : Display) : (s.showDisp d).sp = s.sp := rfl
@[simp] theorem State.showDisp_stack (d : Display) : (s.showDisp d).stack = s.stack := rfl
@[simp] theorem State.showDisp_dt (d : Display) : (s.showDisp d).dt = s.dt := rfl
@[simp] theorem State.showDisp_st (d : Display) : (s.showDisp d).st = s.st := rfl
@[simp] theorem State.showDisp_disp (d : Display) : (s.showDisp d).disp = d := rfl
@[simp] theorem State.showDisp_chg (d : Display) : (s.showDisp d).chg = true := rfl
@[simp] theorem State.showDisp_key (d : Display) : (s.showDisp d).key = s.key := rfl
@[simp] theorem State.showDisp_mem (d : Display) : (s.showDisp d).mem = s.mem := rfl
@[simp] theorem State.showDisp_font (d : Display) : (s.showDisp d).font = s.font := rfl
@[simp] theorem State.showDisp_port (d : Display) : (s.showDisp d).port = s.port := rfl

/-! ## report -/

@[simp] theorem State.report_v (r : Report) : (s.report r).v = s.v := rfl
@[simp] theorem State.report_pc (r : Report) : (s.report r).pc = s.pc := rfl
@[simp] theorem State.report_i (r : Report) : (s.report r).i = s.i := rfl
@[simp] theorem State.report_sp (r : Report) : (s.report r).sp = s.sp := rfl
@[simp] theorem State.report_stack (r : Report) : (s.report r).stack = s.stack := rfl
@[simp] theorem State.report_dt (r : Report) : (s.report r).dt = s.dt := rfl
@[simp] theorem State.report_st (r : Report) : (s.report r).st = s.st := rfl
@[simp] theorem State.report_disp (r : Report) : (s.report r).disp = s.disp := rfl
@[simp] theorem State.report_chg (r : Report) : (s.report r).chg = s.chg := rfl
@[simp] theorem State.report_key (r : Report) : (s.report r).key = s.key := rfl
@[simp] theorem State.report_mem (r : Report) : (s.report r).mem = s.mem := rfl
@[simp] theorem State.report_font (r : Report) : (s.report r).font = s.font := rfl
@[simp] theorem State.report_port (r : Report) : (s.report r).port = { s.port with result := .report r } := rfl

/-! ## setRegs -/

@[simp] theorem State.setRegs_v (bs : List Byte) : (s.setRegs bs).v = Vector.ofFn fun k => bs.getD k.val s.v[k] := rfl
@[simp] theorem State.setRegs_pc (bs : List Byte) : (s.setRegs bs).pc = s.pc := rfl
@[simp] theorem State.setRegs_i (bs : List Byte) : (s.setRegs bs).i = s.i := rfl
@[simp] theorem State.setRegs_sp (bs : List Byte) : (s.setRegs bs).sp = s.sp := rfl
@[simp] theorem State.setRegs_stack (bs : List Byte) : (s.setRegs bs).stack = s.stack := rfl
@[simp] theorem State.setRegs_dt (bs : List Byte) : (s.setRegs bs).dt = s.dt := rfl
@[simp] theorem State.setRegs_st (bs : List Byte) : (s.setRegs bs).st = s.st := rfl
@[simp] theorem State.setRegs_disp (bs : List Byte) : (s.setRegs bs).disp = s.disp := rfl
@[simp] theorem State.setRegs_chg (bs : List Byte) : (s.setRegs bs).chg = s.chg := rfl
@[simp] theorem State.setRegs_key (bs : List Byte) : (s.setRegs bs).key = s.key := rfl
@[simp] theorem State.setRegs_mem (bs : List Byte) : (s.setRegs bs).mem = s.mem := rfl
@[simp] theorem State.setRegs_font (bs : List Byte) : (s.setRegs bs).font = s.font := rfl
@[simp] theorem State.setRegs_port (bs : List Byte) : (s.setRegs bs).port = s.port := rfl

/-! ## beginStep -/

@[simp] theorem State.beginStep_v (b : Byte) : (s.beginStep b).v = s.v := rfl
@[simp] theorem State.beginStep_pc (b : Byte) : (s.beginStep b).pc = s.pc + 2 := rfl
@[simp] theorem State.beginStep_i (b : Byte) : (s.beginStep b).i = s.i := rfl
@[simp] theorem State.beginStep_sp (b : Byte) : (s.beginStep b).sp = s.sp := rfl
@[simp] theorem State.beginStep_stack (b : Byte) : (s.beginStep b).stack = s.stack := rfl
@[simp] theorem State.beginStep_dt (b : Byte) : (s.beginStep b).dt = s.dt := rfl
@[simp] theorem State.beginStep_st (b : Byte) : (s.beginStep b).st = s.st := rfl
@[simp] theorem State.beginStep_disp (b : Byte) : (s.beginStep b).disp = s.disp := rfl
@[simp] theorem State.beginStep_chg (b : Byte) : (s.beginStep b).chg = s.chg := rfl
@[simp] theorem State.beginStep_key (b : Byte) : (s.beginStep b).key = s.key := rfl
@[simp] theorem State.beginStep_mem (b : Byte) : (s.beginStep b).mem = s.mem := rfl
@[simp] theorem State.beginStep_font (b : Byte) : (s.beginStep b).font = s.font := rfl
@[simp] theorem State.beginStep_port (b : Byte) : (s.beginStep b).port = { s.port with rnd := b, result := .report .none } := rfl

/-! ## returns -/

@[simp] theorem State.returns_v (r : CommandResult) : (s.returns r).v = s.v := rfl
@[simp] theorem State.returns_pc (r : CommandResult) : (s.returns r).pc = s.pc := rfl
@[simp] theorem State.returns_i (r : CommandResult) : (s.returns r).i = s.i := rfl
@[simp] theorem State.returns_sp (r : CommandResult) : (s.returns r).sp = s.sp := rfl
@[simp] theorem State.returns_stack (r : CommandResult) : (s.returns r).stack = s.stack := rfl
@[simp] theorem State.returns_dt (r : CommandResult) : (s.returns r).dt = s.dt := rfl
@[simp] theorem State.returns_st (r : CommandResult) : (s.returns r).st = s.st := rfl
@[simp] theorem State.returns_disp (r : CommandResult) : (s.returns r).disp = s.disp := rfl
@[simp] theorem State.returns_chg (r : CommandResult) : (s.returns r).chg = s.chg := rfl
@[simp] theorem State.returns_key (r : CommandResult) : (s.returns r).key = s.key := rfl
@[simp] theorem State.returns_mem (r : CommandResult) : (s.returns r).mem = s.mem := rfl
@[simp] theorem State.returns_font (r : CommandResult) : (s.returns r).font = s.font := rfl
@[simp] theorem State.returns_port (r : CommandResult) : (s.returns r).port = { s.port with result := r } := rfl

/-! ## resetCore -/

@[simp] theorem State.resetCore_v : s.resetCore.v = State.reset.v := rfl
@[simp] theorem State.resetCore_pc : s.resetCore.pc = State.reset.pc := rfl
@[simp] theorem State.resetCore_i : s.resetCore.i = State.reset.i := rfl
@[simp] theorem State.resetCore_sp : s.resetCore.sp = State.reset.sp := rfl
@[simp] theorem State.resetCore_stack : s.resetCore.stack = State.reset.stack := rfl
@[simp] theorem State.resetCore_dt : s.resetCore.dt = State.reset.dt := rfl
@[simp] theorem State.resetCore_st : s.resetCore.st = State.reset.st := rfl
@[simp] theorem State.resetCore_disp : s.resetCore.disp = State.reset.disp := rfl
@[simp] theorem State.resetCore_chg : s.resetCore.chg = State.reset.chg := rfl
@[simp] theorem State.resetCore_key : s.resetCore.key = State.reset.key := rfl
@[simp] theorem State.resetCore_mem : s.resetCore.mem = Memory.withFont s.font := rfl
@[simp] theorem State.resetCore_font : s.resetCore.font = s.font := rfl
@[simp] theorem State.resetCore_port : s.resetCore.port = s.port := rfl

end Sys2Proof.Machine
end

