-- ==== Sys2Proof/Laws/Memory.lean ====
section
/-! SUPPORT. Memory: every operation keeps the canonical form, and what a read gives after a write. -/

namespace Sys2Proof.Machine

/-! ## The canonical form -/

theorem Memory.wfFrom_cons {lo a : Nat} {x : Byte} {m : Memory} : Memory.wfFrom lo ((a, x) :: m) = true ↔
    lo ≤ a ∧ a < 4096 ∧ x ≠ Memory.unlisted a ∧ Memory.wfFrom (a + 1) m = true := by
  simp [Memory.wfFrom, show Config.memSize = 4096 from rfl, and_assoc]

theorem Memory.wfFrom_weaken {lo lo' : Nat} (h : lo ≤ lo') {m : Memory} (hm : Memory.wfFrom lo' m = true) :
    Memory.wfFrom lo m = true := by
  cases m with
  | nil => rfl
  | cons e m =>
    simp only [Memory.wfFrom, Bool.and_eq_true, decide_eq_true_eq] at hm ⊢
    exact ⟨⟨⟨by omega, hm.1.1.2⟩, hm.1.2⟩, hm.2⟩

/-- A cell below everything listed reads as an unlisted one. -/
theorem Memory.byteAt_below {m : Memory} {lo a : Nat} (hm : Memory.wfFrom lo m = true) (ha : a < lo) :
    m.byteAt a = Memory.unlisted a := by
  induction m generalizing lo with
  | nil => rfl
  | cons e m ih =>
    obtain ⟨b, y⟩ := e
    simp only [Memory.wfFrom, Bool.and_eq_true, decide_eq_true_eq] at hm
    have hne : b ≠ a := by omega
    simp only [Memory.byteAt, hne, if_false]
    exact ih hm.2 (by omega)

theorem Memory.put_wfFrom {m : Memory} {lo a : Nat} (x : Byte) (hm : Memory.wfFrom lo m = true) (hlo : lo ≤ a)
    (ha : a < Config.memSize) : Memory.wfFrom lo (m.put a x) = true := by
  induction m generalizing lo with
  | nil =>
    simp only [Memory.put]
    split
    · rfl
    · simp [Memory.wfFrom, *]
  | cons e m ih =>
    obtain ⟨b, y⟩ := e
    have hm' := hm
    simp only [Memory.wfFrom, Bool.and_eq_true, decide_eq_true_eq] at hm
    simp only [Memory.put]
    split
    · split
      · exact hm'
      · simp only [Memory.wfFrom, Bool.and_eq_true, decide_eq_true_eq, bne_iff_ne]
        exact ⟨⟨⟨hlo, ha⟩, by assumption⟩, ⟨⟨⟨by omega, hm.1.1.2⟩, by simpa using hm.1.2⟩, hm.2⟩⟩
    · split
      · subst_vars
        split
        · exact Memory.wfFrom_weaken (by omega) hm.2
        · simp only [Memory.wfFrom, Bool.and_eq_true, decide_eq_true_eq, bne_iff_ne]
          exact ⟨⟨⟨hlo, ha⟩, by assumption⟩, hm.2⟩
      · simp only [Memory.wfFrom, Bool.and_eq_true, decide_eq_true_eq]
        exact ⟨hm.1, ih hm.2 (by omega)⟩

/-- Putting a byte into a cell keeps the canonical form. -/
theorem Memory.put_wf {m : Memory} {a : Nat} (x : Byte) (hm : m.wf = true) (ha : a < Config.memSize) :
    (m.put a x).wf = true :=
  Memory.put_wfFrom x hm (Nat.zero_le a) ha

theorem Memory.byteAt_put_from {m : Memory} {lo : Nat} (hm : Memory.wfFrom lo m = true) (a c : Nat) (x : Byte) :
    (m.put a x).byteAt c = if c = a then x else m.byteAt c := by
  induction m generalizing lo with
  | nil =>
    by_cases hc : c = a
    · subst hc
      by_cases hx : x = Memory.unlisted c <;> simp [Memory.put, Memory.byteAt, hx]
    · by_cases hx : x = Memory.unlisted a <;> simp [Memory.put, Memory.byteAt, hx, hc, Ne.symm hc]
  | cons e m ih =>
    obtain ⟨b, y⟩ := e
    simp only [Memory.wfFrom, Bool.and_eq_true, decide_eq_true_eq] at hm
    have below : ∀ c, c ≤ b → Memory.byteAt m c = Memory.unlisted c := fun c h =>
      Memory.byteAt_below hm.2 (Nat.lt_succ_of_le h)
    by_cases hab : a < b
    · by_cases hx : x = Memory.unlisted a
      · by_cases hc : c = a
        · simp [Memory.put, Memory.byteAt, hab, hx, hc, Nat.ne_of_gt hab, below a (Nat.le_of_lt hab)]
        · simp [Memory.put, hab, hx, hc]
      · by_cases hc : c = a
        · simp [Memory.put, Memory.byteAt, hab, hx, hc]
        · simp [Memory.put, Memory.byteAt, hab, hx, hc, Ne.symm hc]
    · by_cases hb : a = b
      · subst hb
        by_cases hc : c = a
        · by_cases hx : x = Memory.unlisted a <;> simp [Memory.put, Memory.byteAt, hx, hc, below a (Nat.le_refl a)]
        · by_cases hx : x = Memory.unlisted a <;> simp [Memory.put, Memory.byteAt, hx, hc, Ne.symm hc]
      · by_cases hc : b = c
        · subst hc
          simp [Memory.put, Memory.byteAt, hab, hb, Ne.symm hb]
        · simp [Memory.put, Memory.byteAt, hab, hb, hc, ih hm.2]

/-- Reading a cell after a put: the byte put there, and every other cell as before. -/
theorem Memory.byteAt_put {m : Memory} (hm : m.wf = true) (a c : Nat) (x : Byte) :
    (m.put a x).byteAt c = if c = a then x else m.byteAt c :=
  Memory.byteAt_put_from hm a c x

/-! ## Addresses -/

theorem cellOf_lt (a : Word) : cellOf a < Config.memSize := Nat.mod_lt _ (by decide)

theorem cellOf_add (a : Word) (k : Nat) : cellOf (a + BitVec.ofNat 16 k) = (cellOf a + k) % Config.memSize := by
  simp only [cellOf, Config.memSize, BitVec.toNat_add, BitVec.toNat_ofNat]
  omega

/-- The cells of at most 4096 consecutive addresses are distinct. -/
theorem cellOf_add_inj {a : Word} {j k : Nat} (hj : j < Config.memSize) (hk : k < Config.memSize)
    (h : cellOf (a + BitVec.ofNat 16 j) = cellOf (a + BitVec.ofNat 16 k)) : j = k := by
  rw [cellOf_add, cellOf_add] at h
  have := cellOf_lt a
  simp only [Config.memSize] at *
  omega

theorem add_ofNat_succ (a : Word) (k : Nat) : a + 1 + BitVec.ofNat 16 k = a + BitVec.ofNat 16 (k + 1) := by
  rw [BitVec.add_assoc, BitVec.ofNat_add, BitVec.add_comm (BitVec.ofNat 16 k)]
  rfl

/-! ## One byte -/

theorem Memory.write1_wf {m : Memory} (a : Word) (x : Byte) (hm : m.wf = true) : (m.write1 a x).wf = true :=
  Memory.put_wf x hm (cellOf_lt a)

theorem Memory.byteAt_write1 {m : Memory} (hm : m.wf = true) (a : Word) (x : Byte) (c : Nat) :
    (m.write1 a x).byteAt c = if c = cellOf a then x else m.byteAt c :=
  Memory.byteAt_put hm _ _ _

/-! ## Several bytes -/

theorem Memory.writeMany_wf {m : Memory} (a : Word) (bs : List Byte) (hm : m.wf = true) :
    (m.writeMany a bs).wf = true := by
  induction bs generalizing m a with
  | nil => exact hm
  | cons x xs ih => exact ih (a + 1) (Memory.write1_wf a x hm)

/-- A cell that none of the addresses selects is unchanged. -/
theorem Memory.byteAt_writeMany_outside {m : Memory} (hm : m.wf = true) (a : Word) (bs : List Byte) {c : Nat}
    (h : ∀ k < bs.length, c ≠ cellOf (a + BitVec.ofNat 16 k)) : (m.writeMany a bs).byteAt c = m.byteAt c := by
  induction bs generalizing m a with
  | nil => rfl
  | cons x xs ih =>
    have h0 : c ≠ cellOf a := by simpa using h 0 (by simp)
    rw [Memory.writeMany, ih (Memory.write1_wf a x hm), Memory.byteAt_write1 hm, if_neg h0]
    intro k hk
    rw [add_ofNat_succ]
    exact h (k + 1) (by simpa using hk)

/-- The cell of the k-th address holds the k-th byte. -/
theorem Memory.byteAt_writeMany_inside {m : Memory} (hm : m.wf = true) (a : Word) (bs : List Byte)
    (hlen : bs.length ≤ Config.memSize) {k : Nat} (hk : k < bs.length) :
    (m.writeMany a bs).byteAt (cellOf (a + BitVec.ofNat 16 k)) = bs[k] := by
  induction bs generalizing m a k with
  | nil => simp at hk
  | cons x xs ih =>
    simp only [List.length_cons] at hlen hk
    cases k with
    | zero =>
      rw [Memory.writeMany, Memory.byteAt_writeMany_outside (Memory.write1_wf a x hm), Memory.byteAt_write1 hm]
      · simp
      · intro j hj heq
        rw [add_ofNat_succ] at heq
        exact absurd (cellOf_add_inj (by simp [Config.memSize]) (by omega) heq) (by omega)
    | succ k =>
      rw [Memory.writeMany, ← add_ofNat_succ]
      exact ih (Memory.write1_wf a x hm) (a + 1) (by omega) (by omega)

@[simp] theorem Memory.readMany_length (m : Memory) (a : Word) (n : Nat) : (m.readMany a n).length = n := by
  induction n generalizing a with
  | zero => rfl
  | succ n ih => simp [Memory.readMany, ih]

theorem Memory.readMany_getElem (m : Memory) (a : Word) (n : Nat) {k : Nat} (hk : k < (m.readMany a n).length) :
    (m.readMany a n)[k] = m.read1 (a + BitVec.ofNat 16 k) := by
  induction n generalizing a k with
  | zero => simp [Memory.readMany] at hk
  | succ n ih =>
    cases k with
    | zero => simp [Memory.readMany]
    | succ k =>
      simp only [Memory.readMany, List.getElem_cons_succ]
      rw [ih, add_ofNat_succ]

/-! ## The memory after RESET -/

theorem Memory.withFont_wf (font : Font) : (Memory.withFont font).wf = true := Memory.writeMany_wf _ _ rfl

theorem cellOf_fontBase {k : Nat} (hk : k < fontSize) : cellOf (BitVec.ofNat 16 fontBase + BitVec.ofNat 16 k) = fontBase + k := by
  simp only [fontSize] at hk
  rw [cellOf_add]
  simp only [cellOf, fontBase, Config.memSize, BitVec.toNat_ofNat]
  omega

/-- The font area holds `FONT`. -/
theorem Memory.byteAt_withFont (font : Font) {j : Nat} (hj : j < 80) : (Memory.withFont font).byteAt (0x050 + j) = font[j] := by
  have := Memory.byteAt_writeMany_inside (m := []) rfl (BitVec.ofNat 16 fontBase) font.toList (by simp [Config.memSize])
    (k := j) (by simpa using hj)
  rw [cellOf_fontBase hj] at this
  simpa [Memory.withFont, fontBase] using this

/-- Every cell outside the font area holds zero. -/
theorem Memory.byteAt_withFont_outside (font : Font) {a : Nat} (ha : a < 0x050 ∨ 0x0A0 ≤ a) :
    (Memory.withFont font).byteAt a = 0 := by
  rw [Memory.withFont, Memory.byteAt_writeMany_outside (m := []) rfl]
  · exact if_neg (show ¬(0x050 ≤ a ∧ a < 0x050 + 80) by omega)
  · intro k hk
    rw [Vector.length_toList] at hk
    rw [cellOf_fontBase hk]
    simp only [fontBase]
    omega

/-- With the default `FONT` the memory after RESET lists nothing. -/
theorem Memory.withFont_customary : Memory.withFont Font.customary = [] := by decide

end Sys2Proof.Machine
end

