-- ==== Sys2Proof/Laws/Ops.lean ====
section
/-! SUPPORT. What each shared operation does, said once: registers, flags, stack, display, keys, operand forms. -/

namespace Sys2Proof.Machine

/-! ## Registers -/

theorem State.reg_setReg (s : State) (x y : Nibble) (b : Byte) :
    (s.setReg x b).reg y = if y = x then b else s.reg y := by
  simp only [State.reg, State.setReg_v, Vector.getElem_set, BitVec.toNat_inj]
  by_cases h : y = x
  · simp [h]
  · simp [h, Ne.symm h]

theorem State.reg_setFlag (s : State) (y : Nibble) (f : Bool) :
    (s.setFlag f).reg y = if y = 15 then flagByte f else s.reg y :=
  State.reg_setReg s 15 y _

/-- The flag is written last: with `X` = F it is what remains (42_alu.md R120). -/
theorem State.reg_setRegFlag (s : State) (x y : Nibble) (b : Byte) (f : Bool) :
    (s.setRegFlag x b f).reg y = if y = 15 then flagByte f else if y = x then b else s.reg y := by
  rw [State.setRegFlag, State.reg_setFlag, State.reg_setReg]

theorem State.reg_setRegs (s : State) (bs : List Byte) (y : Nibble) :
    (s.setRegs bs).reg y = bs.getD y.toNat (s.reg y) := by
  simp [State.reg, State.setRegs]

theorem State.reg_eq_getElem (s : State) (k : Nat) (hk : k < 16) : s.v[k] = s.reg (BitVec.ofNat 4 k) := by
  simp [State.reg, Nat.mod_eq_of_lt hk]

/-- Registers that agree one by one agree. -/
theorem State.v_ext {s t : State} (h : ∀ y, s.reg y = t.reg y) : s.v = t.v := by
  ext k hk
  rw [State.reg_eq_getElem s k hk, State.reg_eq_getElem t k hk, h]

@[simp] theorem State.reg_of_v {s t : State} (h : s.v = t.v) (y : Nibble) : s.reg y = t.reg y := by
  simp [State.reg, h]

@[simp] theorem State.regsTo_length (s : State) (x : Nibble) : (s.regsTo x).length = x.toNat + 1 := by
  have := x.isLt
  simp only [State.regsTo, List.length_take, Vector.length_toList]
  omega

theorem State.regsTo_getElem (s : State) (x : Nibble) {k : Nat} (hk : k < (s.regsTo x).length) :
    (s.regsTo x)[k] = s.reg (BitVec.ofNat 4 k) := by
  have h16 : k < 16 := by have := x.isLt; rw [State.regsTo_length] at hk; omega
  simp [State.regsTo, ← State.reg_eq_getElem s k h16]

/-! ## Skips, the key a register selects, the addresses and the digits -/

/-- A skip moves `PC` by 2 or not at all, and changes nothing else. -/
theorem State.skipIf_eq (s : State) (c : Bool) : s.skipIf c = { s with pc := if c then s.pc + 2 else s.pc } := by
  cases c <;> rfl

theorem keyIndex_toNat (a : Byte) : (keyIndex a).toNat = a.toNat % 16 := by simp [keyIndex]

theorem cellOf_ea (s : State) (k : Nat) : cellOf (s.ea k) = (s.i.toNat + k) % 4096 := by
  rw [State.ea, cellOf_add, cellOf, show Config.memSize = 4096 from rfl]
  omega

@[simp] theorem decimalDigits_length (a : Byte) : (decimalDigits a).length = 3 := rfl

/-- The three digits of a byte, each at most 9, are its value in decimal. -/
theorem decimalDigits_toNat (a : Byte) :
    (decimalDigits a).map BitVec.toNat = [a.toNat / 100, a.toNat / 10 % 10, a.toNat % 10] := by
  have := a.isLt
  simp only [decimalDigits, List.map_cons, List.map_nil, BitVec.toNat_ofNat]
  congr 1
  · omega
  · congr 1
    · omega
    · congr 1; omega

theorem timerTick_toNat (t : Byte) : (timerTick t).toNat = t.toNat - 1 := by
  have := t.isLt
  unfold timerTick
  split
  · simp [BitVec.toNat_sub]; omega
  · omega

/-! ## Flags -/

theorem flagByte_decide (p : Prop) [Decidable p] : flagByte (decide p) = if p then 1 else 0 := by
  by_cases h : p <;> simp [h, flagByte]

theorem sum9_toNat (a b : Byte) : (sum9 a b).toNat = a.toNat + b.toNat := by
  have := a.isLt; have := b.isLt
  simp only [sum9, BitVec.toNat_add, BitVec.toNat_setWidth]
  omega

theorem sum9_low_toNat (a b : Byte) : ((sum9 a b).setWidth 8).toNat = (a.toNat + b.toNat) % 256 := by
  rw [BitVec.toNat_setWidth, sum9_toNat]

theorem carryOut_eq (a b : Byte) : carryOut a b = decide (255 < a.toNat + b.toNat) := by
  have := a.isLt; have := b.isLt
  rw [carryOut, BitVec.getLsbD, sum9_toNat, Nat.testBit_eq_decide_div_mod_eq]
  exact decide_eq_decide.mpr (by omega)

theorem droppedRight_eq (a : Byte) : droppedRight a = decide (a.toNat % 2 = 1) := by
  simp [droppedRight, BitVec.getLsbD]

theorem droppedLeft_eq (a : Byte) : droppedLeft a = decide (128 ≤ a.toNat) := by
  have := a.isLt
  rw [droppedLeft, BitVec.getLsbD, Nat.testBit_eq_decide_div_mod_eq]
  exact decide_eq_decide.mpr (by omega)

/-! ## Call stack -/

theorem State.stackEntry_of_lt (s : State) {k : Nat} (h : k < 16) : s.stackEntry k = s.stack[k] := dif_pos h

/-! ## Display -/

theorem Display.pixel_of_lt (d : Display) (px : Nat) {py : Nat} (h : py < 32) : d.pixel px py = d[py].getLsbD px :=
  dif_pos h

/-- Inverting one pixel inverts it and leaves every other. -/
theorem Display.pixel_flip (d : Display) {px py qx qy : Nat} (hpx : px < 64) (hpy : py < 32) (hqy : qy < 32) :
    (d.flip px py).pixel qx qy = (d.pixel qx qy ^^ decide (qx = px ∧ qy = py)) := by
  rw [Display.pixel_of_lt _ _ hqy, Display.pixel_of_lt _ _ hqy, Display.flip, dif_pos hpy, Vector.getElem_set]
  by_cases hy : py = qy
  · subst hy
    simp only [if_true, BitVec.getLsbD_xor, BitVec.getLsbD_twoPow, and_true, hpx, decide_true, Bool.true_and]
    by_cases hx : px = qx
    · simp [hx]
    · simp [hx, Ne.symm hx]
  · simp [hy, Ne.symm hy]

/-- Buffers that agree pixel by pixel agree. -/
theorem Display.ext_pixel {d e : Display} (h : ∀ px < 64, ∀ py < 32, d.pixel px py = e.pixel px py) : d = e := by
  ext py hpy px hpx
  have := h px hpx py hpy
  rw [Display.pixel_of_lt _ _ hpy, Display.pixel_of_lt _ _ hpy] at this
  simpa [BitVec.getLsbD_eq_getElem hpx] using this

@[simp] theorem Display.pixel_blank (px py : Nat) : Display.blank.pixel px py = false := by
  rw [Display.pixel]
  split <;> simp [Display.blank]

/-! ## Keys -/

theorem State.lowestKey_none (s : State) : s.lowestKey = none ↔ ∀ k, s.keyDown k = false := by
  simp only [State.lowestKey, List.find?_eq_none, List.mem_map, List.mem_range, forall_exists_index, and_imp,
    forall_apply_eq_imp_iff₂, Bool.not_eq_true]
  constructor
  · intro h k
    simpa using h k.toNat k.isLt
  · intro h k _
    exact h _

/-- The key found is pressed and no key of a lower index is. -/
theorem State.lowestKey_some {s : State} {k : Nibble} (h : s.lowestKey = some k) :
    s.keyDown k = true ∧ ∀ j, j.toNat < k.toNat → s.keyDown j = false := by
  rw [State.lowestKey, List.find?_eq_some_iff_getElem] at h
  obtain ⟨hk, n, hn, hkn, hlow⟩ := h
  refine ⟨hk, fun j hj => ?_⟩
  simp only [List.length_map, List.length_range] at hn
  simp only [List.getElem_map, List.getElem_range] at hkn hlow
  have hn' : k.toNat = n := by rw [← hkn]; simp; omega
  have := hlow j.toNat (by omega)
  simpa using this

end Sys2Proof.Machine
end

