-- ==== Sys2Proof/Laws/Draw.lean ====
section
/-! SUPPORT. The draw loops of 44_display.md R151, pixel by pixel: no pixel is addressed twice (R152 d), so each pixel is inverted
exactly when a sprite bit equal to 1 falls on it, and a hit is a lit pixel so inverted. -/

namespace Sys2Proof.Machine

/-- A sprite bit equal to 1 among the columns `cs` of one row falls on the pixel (qx, qy). -/
def colsCover (row : Byte) (x0 py : Nat) (cs : List Nat) (qx qy : Nat) : Prop :=
  ∃ c ∈ cs, spriteBit row c = true ∧ qx = wrapX (x0 + c) ∧ qy = py

/-- A sprite bit equal to 1 of the rows, the first at display row `y`, falls on the pixel (qx, qy). -/
def rowsCover (x0 y : Nat) (rows : List Byte) (qx qy : Nat) : Prop :=
  ∃ r, ∃ h : r < rows.length, ∃ c < 8, spriteBit rows[r] c = true ∧ qx = wrapX (x0 + c) ∧ qy = wrapY (y + r)

theorem wrapX_lt (x : Nat) : wrapX x < 64 := Nat.mod_lt _ (by decide)

theorem wrapY_lt (y : Nat) : wrapY y < 32 := Nat.mod_lt _ (by decide)

theorem wrapX_add_inj {x0 c c' : Nat} (hc : c < 8) (hc' : c' < 8) (h : wrapX (x0 + c) = wrapX (x0 + c')) : c = c' := by
  simp only [wrapX, Config.dispW] at h
  omega

theorem wrapY_add_ne {y r : Nat} (h0 : 0 < r) (hr : r < 32) : wrapY (y + r) ≠ wrapY y := by
  simp only [wrapY, Config.dispH]
  omega

theorem colsCover_cons (row : Byte) (x0 py c : Nat) (cs : List Nat) (qx qy : Nat) :
    colsCover row x0 py (c :: cs) qx qy ↔
      (spriteBit row c = true ∧ qx = wrapX (x0 + c) ∧ qy = py) ∨ colsCover row x0 py cs qx qy := by
  simp [colsCover]

theorem rowsCover_cons (x0 y : Nat) (row : Byte) (rows : List Byte) (qx qy : Nat) :
    rowsCover x0 y (row :: rows) qx qy ↔
      colsCover row x0 (wrapY y) (List.range 8) qx qy ∨ rowsCover x0 (y + 1) rows qx qy := by
  constructor
  · rintro ⟨r, hr, c, hc, hb, hx, hy⟩
    cases r with
    | zero => exact .inl ⟨c, List.mem_range.mpr hc, hb, hx, hy⟩
    | succ r =>
      refine .inr ⟨r, by simpa using hr, c, hc, hb, hx, ?_⟩
      rw [hy, Nat.add_right_comm, Nat.add_assoc]
  · rintro (⟨c, hc, hb, hx, hy⟩ | ⟨r, hr, c, hc, hb, hx, hy⟩)
    · exact ⟨0, by simp, c, List.mem_range.mp hc, hb, hx, hy⟩
    · refine ⟨r + 1, by simpa using hr, c, hc, hb, hx, ?_⟩
      rw [hy, Nat.add_right_comm, Nat.add_assoc]

/-- The inner loop. -/
theorem blitCols_spec (row : Byte) (x0 : Nat) {py : Nat} (hpy : py < 32) {cs : List Nat} (hnd : cs.Nodup)
    (h8 : ∀ c ∈ cs, c < 8) (b : Blit) :
    (∀ qx qy, qy < 32 → ((blitCols row x0 py cs b).disp.pixel qx qy = true ↔
      Xor (b.disp.pixel qx qy = true) (colsCover row x0 py cs qx qy))) ∧
    ((blitCols row x0 py cs b).hit = true ↔
      b.hit = true ∨ ∃ qx qy, colsCover row x0 py cs qx qy ∧ b.disp.pixel qx qy = true) := by
  induction cs generalizing b with
  | nil => simp [blitCols, colsCover, Xor]
  | cons c cs ih =>
    have hc : c < 8 := h8 c (by simp)
    have hcs : ∀ qx qy, colsCover row x0 py cs qx qy → qx ≠ wrapX (x0 + c) := by
      rintro qx qy ⟨c', hc', -, hx, -⟩ heq
      have := wrapX_add_inj (h8 c' (by simp [hc'])) hc (hx.symm.trans heq)
      exact (List.nodup_cons.mp hnd).1 (this ▸ hc')
    have ih := ih (List.nodup_cons.mp hnd).2 (fun c' h' => h8 c' (by simp [h']))
    simp only [blitCols]
    by_cases hb : spriteBit row c = true
    · simp only [hb, if_true]
      obtain ⟨ih1, ih2⟩ := ih (blitPixel b (wrapX (x0 + c)) py)
      have hpix : ∀ qx qy, qy < 32 → (blitPixel b (wrapX (x0 + c)) py).disp.pixel qx qy =
          (b.disp.pixel qx qy ^^ decide (qx = wrapX (x0 + c) ∧ qy = py)) :=
        fun qx qy hq => Display.pixel_flip b.disp (wrapX_lt _) hpy hq
      constructor
      · intro qx qy hq
        rw [ih1 qx qy hq, hpix qx qy hq, colsCover_cons]
        have := hcs qx qy
        by_cases hcov : colsCover row x0 py cs qx qy <;>
          by_cases hx : qx = wrapX (x0 + c) <;> by_cases hy : qy = py <;> cases b.disp.pixel qx qy <;>
          simp_all [Xor]
      · rw [ih2]
        simp only [blitPixel, Bool.or_eq_true, colsCover_cons]
        constructor
        · rintro ((h | h) | ⟨qx, qy, hcov, hq⟩)
          · exact .inl h
          · exact .inr ⟨_, _, .inl ⟨hb, rfl, rfl⟩, h⟩
          · have hqy : qy = py := by obtain ⟨_, _, _, _, h⟩ := hcov; exact h
            have := hpix qx qy (hqy ▸ hpy)
            simp only [blitPixel, hcs qx qy hcov, false_and, decide_false, Bool.xor_false] at this
            exact .inr ⟨qx, qy, .inr hcov, this ▸ hq⟩
        · rintro (h | ⟨qx, qy, (⟨-, rfl, rfl⟩ | hcov), hq⟩)
          · exact .inl (.inl h)
          · exact .inl (.inr hq)
          · have hqy : qy = py := by obtain ⟨_, _, _, _, h⟩ := hcov; exact h
            have := hpix qx qy (hqy ▸ hpy)
            simp only [blitPixel, hcs qx qy hcov, false_and, decide_false, Bool.xor_false] at this
            exact .inr ⟨qx, qy, hcov, this.trans hq⟩
    · simp only [hb]
      obtain ⟨ih1, ih2⟩ := ih b
      constructor
      · intro qx qy hq
        rw [colsCover_cons]
        simpa [hb] using ih1 qx qy hq
      · simp only [colsCover_cons]
        simpa [hb] using ih2

/-- The whole draw of at most 32 rows. -/
theorem blitRows_spec (x0 y : Nat) (rows : List Byte) (h32 : rows.length ≤ 32) (b : Blit) :
    (∀ qx qy, qy < 32 → ((blitRows x0 y rows b).disp.pixel qx qy = true ↔
      Xor (b.disp.pixel qx qy = true) (rowsCover x0 y rows qx qy))) ∧
    ((blitRows x0 y rows b).hit = true ↔
      b.hit = true ∨ ∃ qx qy, rowsCover x0 y rows qx qy ∧ b.disp.pixel qx qy = true) := by
  induction rows generalizing y b with
  | nil => simp [blitRows, rowsCover, Xor]
  | cons row rows ih =>
    simp only [List.length_cons] at h32
    obtain ⟨c1, c2⟩ := blitCols_spec row x0 (wrapY_lt y) (cs := List.range 8) List.nodup_range
      (fun c h => List.mem_range.mp h) b
    obtain ⟨ih1, ih2⟩ := ih (y + 1) (by omega) (blitCols row x0 (wrapY y) (List.range 8) b)
    have hrow : ∀ qx qy, colsCover row x0 (wrapY y) (List.range 8) qx qy → qy = wrapY y := by
      rintro qx qy ⟨_, _, _, _, h⟩; exact h
    have hrows : ∀ qx qy, rowsCover x0 (y + 1) rows qx qy → qy < 32 ∧ qy ≠ wrapY y := by
      rintro qx qy ⟨r, hr, c, _, _, _, h⟩
      refine ⟨h ▸ wrapY_lt _, ?_⟩
      rw [h, Nat.add_assoc]
      exact wrapY_add_ne (by omega) (by omega)
    simp only [blitRows]
    constructor
    · intro qx qy hq
      rw [ih1 qx qy hq, c1 qx qy hq, rowsCover_cons]
      have := hrow qx qy; have := hrows qx qy
      by_cases h1 : colsCover row x0 (wrapY y) (List.range 8) qx qy <;>
        by_cases h2 : rowsCover x0 (y + 1) rows qx qy <;> simp_all [Xor]
    · rw [ih2, c2]
      simp only [rowsCover_cons]
      constructor
      · rintro ((h | ⟨qx, qy, h, hq⟩) | ⟨qx, qy, h, hq⟩)
        · exact .inl h
        · exact .inr ⟨qx, qy, .inl h, hq⟩
        · refine .inr ⟨qx, qy, .inr h, ?_⟩
          have := (c1 qx qy (hrows qx qy h).1).mp hq
          rcases this with ⟨h, -⟩ | ⟨h', -⟩
          · exact h
          · exact absurd (hrow qx qy h') (hrows qx qy h).2
      · rintro (h | ⟨qx, qy, (h | h), hq⟩)
        · exact .inl (.inl h)
        · exact .inl (.inr ⟨qx, qy, h, hq⟩)
        · refine .inr ⟨qx, qy, h, (c1 qx qy (hrows qx qy h).1).mpr (.inl ⟨hq, fun h' => ?_⟩)⟩
          exact absurd (hrow qx qy h') (hrows qx qy h).2

end Sys2Proof.Machine
end

