-- ==== Sys2Proof/Laws/PerInstr.lean ====
section
/-! SUPPORT. Per-instruction family EncodedRow: the word of the instruction lies in the instruction's own row of the opcode table. -/

namespace Sys2Proof.Laws

/-- A format `NNN` word under the mask of its class. -/
theorem formatNNN_mask (c : Nibble) (nnn : Imm12) :
    formatNNN c nnn &&& (BitVec.allOnes 4 ++ 0#12 : Word) = c ++ 0#12 := by
  rw [formatNNN, BitVec.and_append, BitVec.and_allOnes, BitVec.and_zero]

/-- A format `XKK` word under a mask of its class and of bits of its low byte. -/
theorem formatXKK_mask (c x : Nibble) (kk m : Byte) :
    formatXKK c x kk &&& (BitVec.allOnes 4 ++ 0#4 ++ m : Word) = c ++ 0#4 ++ (kk &&& m) := by
  rw [formatXKK, BitVec.and_append, BitVec.and_append, BitVec.and_allOnes, BitVec.and_zero]

/-- A format `XYN` word under a mask of its class and of bits of its low nibble. -/
theorem formatXYN_mask (c x y n m : Nibble) :
    formatXYN c x y n &&& (BitVec.allOnes 4 ++ 0#4 ++ 0#4 ++ m : Word) = c ++ 0#4 ++ 0#4 ++ (n &&& m) := by
  rw [formatXYN, BitVec.and_append, BitVec.and_append, BitVec.and_append, BitVec.and_allOnes, BitVec.and_zero,
    BitVec.and_zero]

/-- The word of `i` matches a row of the opcode table that bears the pattern of `i` (30_encoding.md R74). -/
def EncodedRow.Statement (i : Instr) : Prop :=
  ∃ r ∈ opcodeTable, r.pattern = i.pattern ∧ r.matchesWord (encodeWord i) = true

end Sys2Proof.Laws

namespace Sys2Proof.Laws.EncodedRow

theorem ofNNN {i : Instr} {c : Nibble} {nnn : Imm12} (p : String) (v : Word) (hp : p = i.pattern)
    (hw : encodeWord i = formatNNN c nnn) (hr : (⟨p, 0xF000, v⟩ : OpcodeRow) ∈ opcodeTable)
    (hv : (c ++ 0#12 : Word) = v) : Statement i :=
  ⟨_, hr, hp, by simp only [OpcodeRow.matchesWord, beq_iff_eq, hw, ← hv]; exact formatNNN_mask c nnn⟩

theorem ofXKK {i : Instr} {c x : Nibble} {kk : Byte} (p : String) (v : Word) (hp : p = i.pattern)
    (hw : encodeWord i = formatXKK c x kk) (hr : (⟨p, 0xF000, v⟩ : OpcodeRow) ∈ opcodeTable)
    (hv : (c ++ 0#4 ++ 0#8 : Word) = v) : Statement i :=
  ⟨_, hr, hp, by
    simp only [OpcodeRow.matchesWord, beq_iff_eq, hw, ← hv]
    exact (formatXKK_mask c x kk 0#8).trans (by rw [BitVec.and_zero])⟩

theorem ofX {i : Instr} {c x : Nibble} {kk : Byte} (p : String) (v : Word) (hp : p = i.pattern)
    (hw : encodeWord i = formatXKK c x kk) (hr : (⟨p, 0xF0FF, v⟩ : OpcodeRow) ∈ opcodeTable)
    (hv : (c ++ 0#4 ++ kk : Word) = v) : Statement i :=
  ⟨_, hr, hp, by
    simp only [OpcodeRow.matchesWord, beq_iff_eq, hw, ← hv]
    exact (formatXKK_mask c x kk (BitVec.allOnes 8)).trans (by rw [BitVec.and_allOnes])⟩

theorem ofXYN {i : Instr} {c x y n : Nibble} (p : String) (v : Word) (hp : p = i.pattern)
    (hw : encodeWord i = formatXYN c x y n) (hr : (⟨p, 0xF000, v⟩ : OpcodeRow) ∈ opcodeTable)
    (hv : (c ++ 0#4 ++ 0#4 ++ 0#4 : Word) = v) : Statement i :=
  ⟨_, hr, hp, by
    simp only [OpcodeRow.matchesWord, beq_iff_eq, hw, ← hv]
    exact (formatXYN_mask c x y n 0#4).trans (by rw [BitVec.and_zero])⟩

theorem ofXY {i : Instr} {c x y n : Nibble} (p : String) (v : Word) (hp : p = i.pattern)
    (hw : encodeWord i = formatXYN c x y n) (hr : (⟨p, 0xF00F, v⟩ : OpcodeRow) ∈ opcodeTable)
    (hv : (c ++ 0#4 ++ 0#4 ++ n : Word) = v) : Statement i :=
  ⟨_, hr, hp, by
    simp only [OpcodeRow.matchesWord, beq_iff_eq, hw, ← hv]
    exact (formatXYN_mask c x y n (BitVec.allOnes 4)).trans (by rw [BitVec.and_allOnes])⟩

theorem cls : Statement .cls := ⟨⟨"00E0", 0xFFFF, 0x00E0⟩, by decide, rfl, by decide⟩
theorem ret : Statement .ret := ⟨⟨"00EE", 0xFFFF, 0x00EE⟩, by decide, rfl, by decide⟩
theorem jp (nnn : Imm12) : Statement (.jp nnn) :=
  ofNNN "1NNN" 0x1000 rfl rfl (by decide) rfl
theorem call (nnn : Imm12) : Statement (.call nnn) :=
  ofNNN "2NNN" 0x2000 rfl rfl (by decide) rfl
theorem seImm (x : Nibble) (kk : Byte) : Statement (.seImm x kk) :=
  ofXKK "3XKK" 0x3000 rfl rfl (by decide) rfl
theorem sneImm (x : Nibble) (kk : Byte) : Statement (.sneImm x kk) :=
  ofXKK "4XKK" 0x4000 rfl rfl (by decide) rfl
theorem seReg (x y u : Nibble) : Statement (.seReg x y u) :=
  ofXYN "5XY0" 0x5000 rfl rfl (by decide) rfl
theorem ldImm (x : Nibble) (kk : Byte) : Statement (.ldImm x kk) :=
  ofXKK "6XKK" 0x6000 rfl rfl (by decide) rfl
theorem addImm (x : Nibble) (kk : Byte) : Statement (.addImm x kk) :=
  ofXKK "7XKK" 0x7000 rfl rfl (by decide) rfl
theorem ldReg (x y : Nibble) : Statement (.ldReg x y) :=
  ofXY "8XY0" 0x8000 rfl rfl (by decide) rfl
theorem orReg (x y : Nibble) : Statement (.orReg x y) :=
  ofXY "8XY1" 0x8001 rfl rfl (by decide) rfl
theorem andReg (x y : Nibble) : Statement (.andReg x y) :=
  ofXY "8XY2" 0x8002 rfl rfl (by decide) rfl
theorem xorReg (x y : Nibble) : Statement (.xorReg x y) :=
  ofXY "8XY3" 0x8003 rfl rfl (by decide) rfl
theorem addReg (x y : Nibble) : Statement (.addReg x y) :=
  ofXY "8XY4" 0x8004 rfl rfl (by decide) rfl
theorem subReg (x y : Nibble) : Statement (.subReg x y) :=
  ofXY "8XY5" 0x8005 rfl rfl (by decide) rfl
theorem shr (x y : Nibble) : Statement (.shr x y) :=
  ofXY "8XY6" 0x8006 rfl rfl (by decide) rfl
theorem subnReg (x y : Nibble) : Statement (.subnReg x y) :=
  ofXY "8XY7" 0x8007 rfl rfl (by decide) rfl
theorem shl (x y : Nibble) : Statement (.shl x y) :=
  ofXY "8XYE" 0x800E rfl rfl (by decide) rfl
theorem sneReg (x y u : Nibble) : Statement (.sneReg x y u) :=
  ofXYN "9XY0" 0x9000 rfl rfl (by decide) rfl
theorem ldI (nnn : Imm12) : Statement (.ldI nnn) :=
  ofNNN "ANNN" 0xA000 rfl rfl (by decide) rfl
theorem jpV0 (nnn : Imm12) : Statement (.jpV0 nnn) :=
  ofNNN "BNNN" 0xB000 rfl rfl (by decide) rfl
theorem rnd (x : Nibble) (kk : Byte) : Statement (.rnd x kk) :=
  ofXKK "CXKK" 0xC000 rfl rfl (by decide) rfl
theorem drw (x y n : Nibble) : Statement (.drw x y n) :=
  ofXYN "DXYN" 0xD000 rfl rfl (by decide) rfl
theorem skp (x : Nibble) : Statement (.skp x) :=
  ofX "EX9E" 0xE09E rfl rfl (by decide) rfl
theorem sknp (x : Nibble) : Statement (.sknp x) :=
  ofX "EXA1" 0xE0A1 rfl rfl (by decide) rfl
theorem ldVxDt (x : Nibble) : Statement (.ldVxDt x) :=
  ofX "FX07" 0xF007 rfl rfl (by decide) rfl
theorem ldVxK (x : Nibble) : Statement (.ldVxK x) :=
  ofX "FX0A" 0xF00A rfl rfl (by decide) rfl
theorem ldDtVx (x : Nibble) : Statement (.ldDtVx x) :=
  ofX "FX15" 0xF015 rfl rfl (by decide) rfl
theorem ldStVx (x : Nibble) : Statement (.ldStVx x) :=
  ofX "FX18" 0xF018 rfl rfl (by decide) rfl
theorem addI (x : Nibble) : Statement (.addI x) :=
  ofX "FX1E" 0xF01E rfl rfl (by decide) rfl
theorem ldF (x : Nibble) : Statement (.ldF x) :=
  ofX "FX29" 0xF029 rfl rfl (by decide) rfl
theorem ldB (x : Nibble) : Statement (.ldB x) :=
  ofX "FX33" 0xF033 rfl rfl (by decide) rfl
theorem storeRegs (x : Nibble) : Statement (.storeRegs x) :=
  ofX "FX55" 0xF055 rfl rfl (by decide) rfl
theorem loadRegs (x : Nibble) : Statement (.loadRegs x) :=
  ofX "FX65" 0xF065 rfl rfl (by decide) rfl

end Sys2Proof.Laws.EncodedRow
end

