-- ==== Sys2Proof/Tests/Slice0.lean ====
section
/-! SUPPORT. The model's own tests. Expected values are those of 95_test_vectors.md (T and P numbers) or of the rules named; the
words are written out from the encodings of the instruction's rule. After them, a witness for each hypothesis of the statements. -/

namespace Sys2Proof.Tests

open Sys2Proof.Machine

/-- The reset state with the word `w` at `PC` (95_test_vectors.md, conventions). -/
def start (w : Nat) : State := State.reset.withFetchWord 16 w

/-- `start` with the registers `V[x] <- b` of the list. -/
def startV (w : Nat) (rs : List (Nibble × Byte)) : State := rs.foldl (fun s r => s.setReg r.1 r.2) (start w)

/-- `s` with the bytes at the address `a` and `I` there. -/
def withData (s : State) (a : Word) (bytes : List Byte) : State := (s.setMem (s.mem.writeMany a bytes)).setI a

/-- `s` with `SP` and one stack entry set. -/
def withStack (s : State) (sp : Byte) (k : Nat) (a : Word) : State := { s with sp := sp, stack := s.stack.setIfInBounds k a }

/-- `s` with the keys of the list pressed. -/
def withKeys (s : State) (ks : List Nat) : State := { s with key := ks.foldl (fun v k => v.setIfInBounds k true) s.key }

/-- After the command `c` the check holds. -/
def after (c : Command) (s : State) (p : State → Bool) : Bool :=
  match perform c s with
  | .next t => p t
  | .fault _ => false
  | .refused _ => false

/-- After one STEP with `rnd` = A7 the check holds, `PC` is as given and the report is NONE. -/
def stepTo (pc : Word) (s : State) (p : State → Bool) : Bool :=
  after (.step 0xA7) s fun t => t.pc == pc && t.port.result == .report .none && p t

/-- After one STEP the report is `r`, `PC` is advanced and nothing else of the core has changed. -/
def stepReports (r : Report) (s : State) : Bool :=
  after (.step 0xA7) s fun t => t == { s with pc := s.pc + 2, port := { s.port with rnd := 0xA7, result := .report r } }

/-- The lit pixels of the first `rows` rows, row by row. -/
def lit (rows : Nat) (d : Display) : List (Nat × Nat) :=
  (List.range rows).flatMap fun y => ((List.range 64).filter (fun x => d.pixel x y)).map fun x => (x, y)

/-- `s` with the pixel (px, py) inverted. -/
def withPixel (s : State) (px py : Nat) : State := { s with disp := s.disp.flip px py }

/-! ## Well-formed: each check refuses an ill-formed term -/

theorem test_wf_refuses_seReg_low_nibble : (Instr.seReg 1 2 1).canonical = false ∧ (Instr.seReg 1 2 0).canonical = true := by decide
theorem test_wf_refuses_sneReg_low_nibble : (Instr.sneReg 1 2 15).canonical = false ∧ (Instr.sneReg 1 2 0).canonical = true := by decide
theorem test_wf_refuses_empty_image : imageOk [] = false ∧ imageOk [0x12] = true := by decide
theorem test_wf_refuses_image_of_3585 : imageOk (List.replicate 3585 1) = false ∧ imageOk (List.replicate 3584 1) = true := by
  constructor <;> rw [imageOk, List.length_replicate] <;> decide

/-! ## Decoding: a word of each constructor, its bits written out from its encoding -/

theorem test_decode_cls : decodeWord 0b0000_0000_1110_0000 = .ok .cls := by decide
theorem test_decode_ret : decodeWord 0b0000_0000_1110_1110 = .ok .ret := by decide
theorem test_decode_jp : decodeWord 0b0001_1010_1011_1100 = .ok (.jp 0xABC) := by decide
theorem test_decode_call : decodeWord 0b0010_0010_0001_0000 = .ok (.call 0x210) := by decide
theorem test_decode_seImm : decodeWord 0b0011_0011_0010_1010 = .ok (.seImm 3 0x2A) := by decide
theorem test_decode_sneImm : decodeWord 0b0100_0011_0010_1011 = .ok (.sneImm 3 0x2B) := by decide
theorem test_decode_seReg : decodeWord 0b0101_0001_0010_0001 = .ok (.seReg 1 2 1) := by decide
theorem test_decode_ldImm : decodeWord 0b0110_1010_0000_0010 = .ok (.ldImm 10 0x02) := by decide
theorem test_decode_addImm : decodeWord 0b0111_0001_0000_0011 = .ok (.addImm 1 0x03) := by decide
theorem test_decode_ldReg : decodeWord 0b1000_0001_0010_0000 = .ok (.ldReg 1 2) := by decide
theorem test_decode_orReg : decodeWord 0b1000_0001_0010_0001 = .ok (.orReg 1 2) := by decide
theorem test_decode_andReg : decodeWord 0b1000_0001_0010_0010 = .ok (.andReg 1 2) := by decide
theorem test_decode_xorReg : decodeWord 0b1000_0001_0010_0011 = .ok (.xorReg 1 2) := by decide
theorem test_decode_addReg : decodeWord 0b1000_1010_1011_0100 = .ok (.addReg 10 11) := by decide
theorem test_decode_subReg : decodeWord 0b1000_0001_0010_0101 = .ok (.subReg 1 2) := by decide
theorem test_decode_shr : decodeWord 0b1000_0001_0010_0110 = .ok (.shr 1 2) := by decide
theorem test_decode_subnReg : decodeWord 0b1000_0001_0010_0111 = .ok (.subnReg 1 2) := by decide
theorem test_decode_shl : decodeWord 0b1000_0001_0010_1110 = .ok (.shl 1 2) := by decide
theorem test_decode_sneReg : decodeWord 0b1001_0001_0010_1111 = .ok (.sneReg 1 2 15) := by decide
theorem test_decode_ldI : decodeWord 0b1010_0010_1111_0000 = .ok (.ldI 0x2F0) := by decide
theorem test_decode_jpV0 : decodeWord 0b1011_0011_0000_0000 = .ok (.jpV0 0x300) := by decide
theorem test_decode_rnd : decodeWord 0b1100_0011_0000_1111 = .ok (.rnd 3 0x0F) := by decide
theorem test_decode_drw : decodeWord 0b1101_0001_0010_0101 = .ok (.drw 1 2 5) := by decide
theorem test_decode_skp : decodeWord 0b1110_0010_1001_1110 = .ok (.skp 2) := by decide
theorem test_decode_sknp : decodeWord 0b1110_0010_1010_0001 = .ok (.sknp 2) := by decide
theorem test_decode_ldVxDt : decodeWord 0b1111_0101_0000_0111 = .ok (.ldVxDt 5) := by decide
theorem test_decode_ldVxK : decodeWord 0b1111_0011_0000_1010 = .ok (.ldVxK 3) := by decide
theorem test_decode_ldDtVx : decodeWord 0b1111_0101_0001_0101 = .ok (.ldDtVx 5) := by decide
theorem test_decode_ldStVx : decodeWord 0b1111_0101_0001_1000 = .ok (.ldStVx 5) := by decide
theorem test_decode_addI : decodeWord 0b1111_0010_0001_1110 = .ok (.addI 2) := by decide
theorem test_decode_ldF : decodeWord 0b1111_0100_0010_1001 = .ok (.ldF 4) := by decide
theorem test_decode_ldB : decodeWord 0b1111_0000_0011_0011 = .ok (.ldB 0) := by decide
theorem test_decode_storeRegs : decodeWord 0b1111_0010_0101_0101 = .ok (.storeRegs 2) := by decide
theorem test_decode_loadRegs : decodeWord 0b1111_0010_0110_0101 = .ok (.loadRegs 2) := by decide

/-- T5 to T12. -/
theorem test_decode_unrecognised : [0x0000, 0x00E1, 0x01E0, 0x8008, 0x812F, 0xE09F, 0xF000, 0xF075].all
    (fun w => decodeWord w == .error (.unrecognized w)) = true := by decide
/-- The first byte is the more significant (S10); fewer than two bytes are refused. -/
theorem test_decode_bytes : decode [0x6A, 0x02, 0xFF] = .ok (.ldImm 10 2, [0xFF]) ∧ decode [0x6A] = .error .truncated := by decide
/-- The host's numbering: bit 0 is the least significant bit of the word. -/
theorem test_decodeTableWord : decodeTableWord 16 0xD125 = some (.drw 1 2 5) ∧ decodeTableWord 16 0x8008 = none := by decide

/-! ## One step of each instruction -/

/-- T3, T4: the second byte is fetched from cell 0, and PC is modulo 65536. -/
theorem test_fetch_wraps : stepTo 0x1001 ({ State.reset with pc := 0xFFF }.withFetchWord 16 0x6A07) (fun t => t.reg 10 == 7) = true ∧
    stepTo 0x0001 ({ State.reset with pc := 0xFFFF }.withFetchWord 16 0x6A07) (fun t => t.reg 10 == 7) = true := by decide
/-- T5, T96: the report and nothing beyond the advance. -/
theorem test_unrecognised : stepReports (.unrecognized 0) State.reset = true := by decide
/-- T20, T22. -/
theorem test_jp : stepTo 0xABC (start 0x1ABC) (fun _ => true) = true ∧ stepTo 0x201 (start 0x1201) (fun _ => true) = true := by decide
/-- T24. -/
theorem test_call : stepTo 0x300 (withStack (start 0x2300) 15 0 0) (fun t => t.sp == 16 && t.stack[15] == 0x202) = true := by decide
/-- T25. -/
theorem test_call_full : stepReports .stackOverflow (withStack (start 0x2300) 16 15 0x111) = true := by decide
/-- T26, T28. -/
theorem test_ret : stepTo 0x10FE (withStack (start 0x00EE) 1 0 0x10FE) (fun t => t.sp == 0 && t.stack[0] == 0x10FE) = true := by decide
/-- T27. -/
theorem test_ret_empty : stepReports .stackUnderflow (start 0x00EE) = true := by decide
/-- T30. -/
theorem test_jpV0 : stepTo 0x10FE (startV 0xBFFF [(0, 0xFF)]) (fun _ => true) = true := by decide
/-- T31, T32. -/
theorem test_seImm : stepTo 0x204 (startV 0x332A [(3, 0x2A)]) (fun _ => true) = true ∧ stepTo 0x202 (startV 0x332B [(3, 0x2A)]) (fun _ => true) = true := by decide
/-- T33, T34. -/
theorem test_sneImm : stepTo 0x202 (startV 0x432A [(3, 0x2A)]) (fun _ => true) = true ∧ stepTo 0x204 (startV 0x432B [(3, 0x2A)]) (fun _ => true) = true := by decide
/-- T36, T37. -/
theorem test_seReg : stepTo 0x202 (startV 0x5120 [(1, 4), (2, 5)]) (fun _ => true) = true ∧ stepTo 0x204 (startV 0x5121 [(1, 4), (2, 4)]) (fun _ => true) = true := by decide
/-- T40, T41. -/
theorem test_sneReg : stepTo 0x204 (startV 0x912F [(1, 4), (2, 5)]) (fun _ => true) = true ∧ stepTo 0x202 (startV 0x9770 [(7, 9)]) (fun _ => true) = true := by decide
/-- T42. -/
theorem test_skip_wraps : stepTo 0x0002 ({ State.reset with pc := 0xFFFE }.withFetchWord 16 0x3000) (fun _ => true) = true := by decide
/-- T50. -/
theorem test_ldImm : stepTo 0x202 (startV 0x6FAB []) (fun t => t.reg 15 == 0xAB) = true := by decide
/-- T51, T52. -/
theorem test_addImm : stepTo 0x202 (startV 0x7003 [(0, 0xFE)]) (fun t => t.reg 0 == 0x01 && t.reg 15 == 0x00) = true ∧
    stepTo 0x202 (startV 0x7FFF [(15, 1)]) (fun t => t.reg 15 == 0) = true := by decide
/-- T53. -/
theorem test_ldReg : stepTo 0x202 (startV 0x8120 [(2, 0x5C)]) (fun t => t.reg 1 == 0x5C && t.reg 2 == 0x5C) = true := by decide
/-- T54. -/
theorem test_orReg : stepTo 0x202 (startV 0x8121 [(1, 0xF0), (2, 0x3C), (15, 7)]) (fun t => t.reg 1 == 0xFC && t.reg 15 == 7) = true := by decide
/-- T55. -/
theorem test_andReg : stepTo 0x202 (startV 0x8122 [(1, 0xF0), (2, 0x3C), (15, 7)]) (fun t => t.reg 1 == 0x30 && t.reg 15 == 7) = true := by decide
/-- T56. -/
theorem test_xorReg : stepTo 0x202 (startV 0x8123 [(1, 0xF0), (2, 0x3C), (15, 7)]) (fun t => t.reg 1 == 0xCC && t.reg 15 == 7) = true := by decide
/-- T58, T60, T61. -/
theorem test_addReg : stepTo 0x202 (startV 0x8AB4 [(10, 2), (11, 3)]) (fun t => t.reg 10 == 5 && t.reg 15 == 0) = true ∧
    stepTo 0x202 (startV 0x8124 [(1, 0xFF), (2, 0xFF)]) (fun t => t.reg 1 == 0xFE && t.reg 15 == 1) = true ∧
    stepTo 0x202 (startV 0x8124 [(1, 0x80), (2, 0x7F)]) (fun t => t.reg 1 == 0xFF && t.reg 15 == 0) = true := by decide
/-- T63, T64. -/
theorem test_addReg_flag_wins : stepTo 0x202 (startV 0x81F4 [(1, 0xFF), (15, 1)]) (fun t => t.reg 1 == 0 && t.reg 15 == 1) = true ∧
    stepTo 0x202 (startV 0x8FE4 [(15, 0xF0), (14, 0x20)]) (fun t => t.reg 15 == 1) = true := by decide
/-- T67, T69. -/
theorem test_subReg : stepTo 0x202 (startV 0x8125 [(1, 5), (2, 5)]) (fun t => t.reg 1 == 0 && t.reg 15 == 1) = true ∧
    stepTo 0x202 (startV 0x8125 [(1, 0x10), (2, 0x20)]) (fun t => t.reg 1 == 0xF0 && t.reg 15 == 0) = true := by decide
/-- T71. -/
theorem test_subReg_flag_wins : stepTo 0x202 (startV 0x8F05 [(15, 5), (0, 9)]) (fun t => t.reg 15 == 0) = true := by decide
/-- T72, T76. -/
theorem test_shr : stepTo 0x202 (startV 0x8126 [(1, 5), (2, 0xEE)]) (fun t => t.reg 1 == 2 && t.reg 15 == 1 && t.reg 2 == 0xEE) = true ∧
    stepTo 0x202 (startV 0x8F06 [(15, 2)]) (fun t => t.reg 15 == 0) = true := by decide
/-- T77, T78. -/
theorem test_subnReg : stepTo 0x202 (startV 0x8127 [(1, 3), (2, 0x0A)]) (fun t => t.reg 1 == 7 && t.reg 15 == 1) = true ∧
    stepTo 0x202 (startV 0x8127 [(1, 0x0A), (2, 3)]) (fun t => t.reg 1 == 0xF9 && t.reg 15 == 0) = true := by decide
/-- T79a. -/
theorem test_subnReg_flag_wins : stepTo 0x202 (startV 0x8F07 [(15, 5), (0, 9)]) (fun t => t.reg 15 == 1) = true := by decide
/-- T79b, T79e. -/
theorem test_shl : stepTo 0x202 (startV 0x812E [(1, 0x81), (2, 0xEE)]) (fun t => t.reg 1 == 2 && t.reg 15 == 1 && t.reg 2 == 0xEE) = true ∧
    stepTo 0x202 (startV 0x8F0E [(15, 0x81)]) (fun t => t.reg 15 == 1) = true := by decide
/-- T79f, T79i. -/
theorem test_rnd : stepTo 0x202 (startV 0xC30F []) (fun t => t.reg 3 == 7) = true ∧
    stepTo 0x202 (startV 0xCF0F []) (fun t => t.reg 15 == 7) = true := by decide
/-- T100. -/
theorem test_ldI : stepTo 0x202 ((start 0xA2F0).setI 0xFFFF) (fun t => t.i == 0x2F0) = true := by decide
/-- T102, T103. -/
theorem test_addI : stepTo 0x202 ((startV 0xF01E [(0, 1)]).setI 0xFFF) (fun t => t.i == 0x1000 && t.reg 15 == 0) = true ∧
    stepTo 0x202 ((startV 0xF01E [(0, 2)]).setI 0xFFFF) (fun t => t.i == 1 && t.reg 15 == 0) = true := by decide
/-- T106, T107. -/
theorem test_ldF : stepTo 0x202 (startV 0xF429 [(4, 0x0F)]) (fun t => t.i == 0x9B) = true ∧
    stepTo 0x202 (startV 0xF029 [(0, 0xFF)]) (fun t => t.i == 0x54B) = true := by decide
/-- T108, T111. -/
theorem test_ldB : stepTo 0x202 ((startV 0xF033 [(0, 0xEA)]).setI 0x300) (fun t => t.mem.readMany 0x300 4 == [2, 3, 4, 0] && t.i == 0x300) = true ∧
    stepTo 0x202 ((startV 0xF033 [(0, 0xFF)]).setI 0xFFE) (fun t => [t.mem.byteAt 0xFFE, t.mem.byteAt 0xFFF, t.mem.byteAt 0] == [2, 5, 5]) = true := by decide
/-- T112. -/
theorem test_storeRegs : stepTo 0x202 ((startV 0xF255 [(0, 0x11), (1, 0x22), (2, 0x33), (3, 0x44)]).setI 0x400)
    (fun t => t.mem.readMany 0x400 4 == [0x11, 0x22, 0x33, 0] && t.i == 0x400) = true := by decide
/-- T114, four of its cells. -/
theorem test_storeRegs_wraps : stepTo 0x202 ((startV 0xFF55 [(0, 0xA0), (7, 0xA7), (8, 0xA8), (15, 0xAF)]).setI 0xFF8)
    (fun t => [t.mem.byteAt 0xFF8, t.mem.byteAt 0xFFF, t.mem.byteAt 0, t.mem.byteAt 7, t.mem.byteAt 8] == [0xA0, 0xA7, 0xA8, 0xAF, 0]) = true := by decide
/-- T115. -/
theorem test_loadRegs : stepTo 0x202 ((withData (start 0xF265) 0x300 [2, 3, 4, 5]).setReg 3 0x99)
    (fun t => [t.reg 0, t.reg 1, t.reg 2, t.reg 3] == [2, 3, 4, 0x99] && t.i == 0x300) = true := by decide
/-- T117. -/
theorem test_loadRegs_font : stepTo 0x202 ((start 0xF465).setI 0x050) (fun t => t.regsTo 5 == [0xF0, 0x90, 0x90, 0x90, 0xF0, 0]) = true := by decide
/-- T120, T121. -/
theorem test_cls : stepTo 0x202 ((withPixel (start 0x00E0) 63 31).setReg 15 5) (fun t => lit 32 t.disp == [] && t.chg && t.reg 15 == 5) = true ∧
    stepTo 0x202 (start 0x00E0) (fun t => t.chg) = true := by decide
/-- T124, T125. -/
theorem test_drw_wraps : stepTo 0x202 ((withData (start 0xD011) 0x300 [0xFF]).setReg 0 60) (fun t =>
      lit 32 t.disp == [(0, 0), (1, 0), (2, 0), (3, 0), (60, 0), (61, 0), (62, 0), (63, 0)] && t.reg 15 == 0 && t.chg) = true ∧
    stepTo 0x202 ((withData (start 0xD012) 0x300 [0x80, 0x80]).setReg 1 31) (fun t => lit 32 t.disp == [(0, 0), (0, 31)] && t.reg 15 == 0) = true := by decide
/-- T127, T129. -/
theorem test_drw_collision : stepTo 0x202 ((withData (start 0xDFF1) 0x300 [0x80]).setReg 15 5) (fun t => lit 32 t.disp == [(5, 5)] && t.reg 15 == 0) = true ∧
    stepTo 0x202 (withPixel (withData (start 0xD011) 0x300 [0xC0]) 1 0) (fun t => lit 32 t.disp == [(0, 0)] && t.reg 15 == 1) = true := by decide
/-- T141, T142. -/
theorem test_skp : stepTo 0x202 (startV 0xE29E [(2, 5)]) (fun _ => true) = true ∧ stepTo 0x204 (withKeys (startV 0xE09E [(0, 0x35)]) [5]) (fun _ => true) = true := by decide
/-- T143, T145. -/
theorem test_sknp : stepTo 0x204 (startV 0xE2A1 [(2, 5)]) (fun _ => true) = true ∧ stepTo 0x202 (withKeys (startV 0xE0A1 [(0, 0x35)]) [5]) (fun _ => true) = true := by decide
/-- T147, T148. -/
theorem test_ldVxK : stepTo 0x202 (withKeys (start 0xF30A) [7, 2]) (fun t => t.reg 3 == 2) = true ∧
    stepTo 0x202 (withKeys (start 0xFF0A) [15]) (fun t => t.reg 15 == 15) = true := by decide
/-- T146, one STEP. -/
theorem test_ldVxK_waits : stepTo 0x200 (startV 0xF30A [(3, 0x77)]) (fun t => t.reg 3 == 0x77) = true := by decide
/-- T150. -/
theorem test_ldVxDt : stepTo 0x202 { start 0xF507 with dt := 0x3C } (fun t => t.reg 5 == 0x3C && t.dt == 0x3C) = true := by decide
/-- T151. -/
theorem test_ldDtVx : stepTo 0x202 (startV 0xF515 [(5, 0x3C)]) (fun t => t.dt == 0x3C && t.st == 0) = true := by decide
/-- T152. -/
theorem test_ldStVx : stepTo 0x202 (startV 0xF518 [(5, 8)]) (fun t => t.st == 8 && t.dt == 0) = true := by decide

/-! ## The other commands -/

/-- T80, T84. -/
theorem test_tick : after .tick { State.reset with dt := 5, st := 2 } (fun t => t.dt == 4 && t.st == 1) = true ∧
    after .tick State.reset (fun t => t == State.reset) = true := by decide
/-- T85, T86. -/
theorem test_setKey : after (.setKey 3 true) State.reset (fun t => t.keyDown 3) = true ∧ after (.setKey 3 false) (withKeys State.reset [3]) (fun t => !t.keyDown 3) = true := by decide
/-- T88. -/
theorem test_setKey_ignored : after (.setKey 16 true) State.reset (fun t => t == State.reset) = true := by decide
/-- T89. -/
theorem test_ackDisplay : after .ackDisplay { withPixel State.reset 3 4 with chg := true } (fun t => !t.chg && t.disp.pixel 3 4) = true := by decide
/-- T98. -/
theorem test_reset : after .reset { withKeys (withPixel (start 0x6A07) 3 4) [4] with chg := true, dt := 9 } (fun t => t == State.reset) = true := by decide
/-- R60, R190: RESET installs the core's own FONT. -/
theorem test_reset_other_font : after .reset ((State.newCore (Vector.replicate 80 0x18)).setMem [(0x200, 7)]) (fun t =>
      t.mem.readMany 0x04F 2 == [0, 0x18] && t.mem.readMany 0x09F 2 == [0x18, 0] && t.mem.byteAt 0x200 == 0 &&
        t.font == Vector.replicate 80 0x18) = true := by decide
/-- T93. -/
theorem test_load : after (.load [0x12]) (startV 0x6A07 [(3, 4)]) (fun t => t.mem == [(0x200, 0x12)] && t.reg 3 == 0 && t.port.result == .load .ok) = true := by decide
/-- T92. -/
theorem test_load_empty : after (.load []) (startV 0x6A07 [(3, 4)]) (fun t => t == { startV 0x6A07 [(3, 4)] with port := t.port } && t.port.result == .load .empty) = true := by decide
/-- Two scheduled commands are two steps. -/
theorem test_scheduled : (match Host.Core.run ⟨State, Fault, Refusal, step, State.reset⟩ 2 { start 0xC3FF with port := { Port.idle with schedule := [.setKey 7 true, .step 0x5A] } } with
    | .next t => decide (t.keyDown 7 = true ∧ t.reg 3 = 0x5A ∧ t.pc = 0x202 ∧ t.port.schedule = [])
    | .fault _ => false
    | .refused _ => false) = true := by decide
/-- P4: the pixel (63, 31) has the linear index 2047, the pixel (0, 31) the index 1984. -/
theorem test_observe : (withPixel State.reset 63 31).observePixel 2047 = true ∧ (withPixel State.reset 0 31).observePixel 1984 = true ∧
    (withPixel State.reset 63 31).observePixel 1984 = false ∧ (withPixel State.reset 63 31).observe.2 = false := by decide
/-- T1, T5: a run with an unrecognised word is not safe. -/
theorem test_safeRun : safeRun 1 (start 0x6A07) = true ∧ safeRun 1 (start 0x0000) = false := by decide

/-! ## Memory -/

/-- Writing the reset contents removes the entry: equal memories are equal data. -/
theorem test_memory_canonical : Memory.write1 (Memory.write1 [] 0x1300 7) 0x1300 0 = [] ∧ Memory.write1 [] 0x1300 7 = [(0x300, 7)] ∧
    Memory.write1 [] 0x50 0xF0 = [] ∧ (Memory.write1 [] 0x50 0).wf = true := by decide

/-! ## Witnesses: concrete states and operands that meet the hypotheses of the statements -/

theorem test_witness_decoded_word : decodeWord 0x8AB4 = .ok (.addReg 10 11) := by decide

/-- EveryStepKeepsTheInvariant: at `SP` = 15 and at `SP` = 16, a call. -/
theorem test_witness_inv_step : (withStack (start 0x2300) 15 0 0).Inv ∧ (withStack (start 0x2300) 16 0 0).Inv ∧
    (∃ t, step (withStack (start 0x2300) 15 0 0) = .next t) ∧ ∃ t, step (withStack (start 0x2300) 16 0 0) = .next t :=
  ⟨⟨by decide, by decide⟩, ⟨by decide, by decide⟩, ⟨_, rfl⟩, ⟨_, rfl⟩⟩

/-- ResetLeavesTheListedValues and LoadIsTheSameFromEveryState: two states of a core with a FONT that is not the default. -/
theorem test_witness_font : Font.customary ≠ Vector.replicate 80 0x18 ∧ imageOk [0x12] = true ∧
    (State.newCore (Vector.replicate 80 0x18)).font = ((State.newCore (Vector.replicate 80 0x18)).setReg 3 4).font := by decide

/-- EqualReadsMeanEqualMemories. -/
theorem test_witness_equal_reads : Memory.wf [(0x200, 1)] = true ∧ Memory.wf (Memory.write1 [] 0x1200 1) = true ∧
    ∀ a < 4096, Memory.byteAt [(0x200, 1)] a = Memory.byteAt (Memory.write1 [] 0x1200 1) a :=
  ⟨by decide, by decide, fun _ _ => rfl⟩

/-- The STEP statements: a word that decodes and one that does not, nothing scheduled and a STEP scheduled. -/
theorem test_witness_fetch : decodeWord (start 0x6A07).fetchWord = .ok (.ldImm 10 7) ∧
    decodeWord (start 0x01E0).fetchWord = .error (.unrecognized 0x01E0) ∧ (start 0x6A07).port.schedule = [] ∧
    decodeWord { start 0x6A07 with port := { Port.idle with schedule := [.step 5, .tick] } }.fetchWord = .ok (.ldImm 10 7) := by
  decide

/-- StoredBytesAreFetchedNext, DecimalDigitsAreStored, RegistersAreStoredFromI: canonical memory, the smallest and largest X. -/
theorem test_witness_store : (start 0xF155).mem.wf = true ∧ 1 ≤ (1 : Nibble).toNat ∧ 1 ≤ (15 : Nibble).toNat := by decide

/-- OnlyDestinationRegistersChange: both clauses, X = F among them; OnlyControlInstructionsMovePcAfterTheAdvance. -/
theorem test_witness_registers : (∃ t, exec (.addReg 15 14) (start 0) = .next t) ∧ (Instr.addReg 15 14).mayWriteReg 14 = false ∧
    (Instr.addReg 15 14).writesFlag = true ∧ (Instr.addReg 15 14).setsPc = false :=
  ⟨⟨_, rfl⟩, by decide, by decide, by decide⟩

/-- The frame statements on I, the timers, the display, memory and the interface: FX65 is none of the excepted instructions. -/
theorem test_witness_frames : (∃ t, exec (.loadRegs 15) (start 0) = .next t) ∧ (∀ nnn, Instr.loadRegs 15 ≠ .ldI nnn) ∧
    (∀ x, Instr.loadRegs 15 ≠ .addI x) ∧ (∀ x, Instr.loadRegs 15 ≠ .ldF x) ∧ (∀ x, Instr.loadRegs 15 ≠ .ldDtVx x) ∧
    (∀ x, Instr.loadRegs 15 ≠ .ldStVx x) ∧ (∀ x y n, Instr.loadRegs 15 ≠ .drw x y n) ∧ Instr.loadRegs 15 ≠ .cls ∧
    (∀ x, Instr.loadRegs 15 ≠ .ldB x) ∧ (∀ x, Instr.loadRegs 15 ≠ .storeRegs x) ∧ (∀ nnn, Instr.loadRegs 15 ≠ .call nnn) ∧
    Instr.loadRegs 15 ≠ .ret := by
  refine ⟨⟨_, rfl⟩, ?_⟩
  simp

/-- InstructionsLeaveTheCommandInterface: a call and a return, each with its report and without. -/
theorem test_witness_stack_reports : (∃ t, exec (.call 0x300) (withStack (start 0) 16 0 0) = .next t) ∧
    (∃ t, exec (.call 0x300) (start 0) = .next t) ∧ (∃ t, exec .ret (start 0) = .next t) ∧
    ∃ t, exec .ret (withStack (start 0) 1 0 0x206) = .next t :=
  ⟨⟨_, rfl⟩, ⟨_, rfl⟩, ⟨_, rfl⟩, ⟨_, rfl⟩⟩

/-- OnlyCallAndReturnUseTheStack: a call that leaves 15 entries; OnlyClearAndDrawTouchTheDisplay: a draw with CHG set. -/
theorem test_witness_call_draw : (∃ t, exec (.call 0x300) (withStack (start 0) 15 0 0) = .next t) ∧
    14 ≠ (withStack (start 0) 15 0 0).sp.toNat ∧ (∃ t, exec (.drw 0 1 5) { start 0 with chg := true } = .next t) :=
  ⟨⟨_, rfl⟩, by decide, ⟨_, rfl⟩⟩

/-- The clauses of the call and return statements at SP = 15, 16 and at SP = 0, 1, 16, 17. -/
theorem test_witness_stack_bounds : (15 : Byte).toNat < 16 ∧ 16 ≤ (16 : Byte).toNat ∧ (0 : Byte).toNat = 0 ∧ 0 < (1 : Byte).toNat ∧
    (16 : Byte).toNat - 1 < 16 ∧ ¬ (17 : Byte).toNat - 1 < 16 := by decide

/-- TakenSkipMovesFourUntakenTwo and SkipsOnKey: a word of each of the six skips. -/
theorem test_witness_skips_decoded :
    decodeWord (start 0x332A).fetchWord = .ok (.seImm 3 0x2A) ∧ decodeWord (start 0x432A).fetchWord = .ok (.sneImm 3 0x2A) ∧
    decodeWord (start 0x5120).fetchWord = .ok (.seReg 1 2 0) ∧ decodeWord (start 0x912F).fetchWord = .ok (.sneReg 1 2 15) ∧
    decodeWord (start 0xE09E).fetchWord = .ok (.skp 0) ∧ decodeWord (start 0xE0A1).fetchWord = .ok (.sknp 0) ∧
    [Instr.seImm 3 0x2A, .sneImm 3 0x2A, .seReg 1 2 0, .sneReg 1 2 15, .skp 0, .sknp 0].all
      (fun i => (skipTaken i (start 0)).isSome) = true := by decide

/-- The same: the conditions, each true in one state and false in another. -/
theorem test_witness_skips :
    skipTaken (.seImm 3 0x2A) (startV 0x332A [(3, 0x2A)]) = some ((startV 0x332A [(3, 0x2A)]).reg 3 = 0x2A) ∧
    (startV 0x332A [(3, 0x2A)]).reg 3 = 0x2A ∧ (start 0x332A).reg 3 ≠ 0x2A ∧
    (startV 0x5120 [(1, 4)]).reg 1 ≠ (startV 0x5120 [(1, 4)]).reg 2 ∧ (start 0x5120).reg 1 = (start 0x5120).reg 2 ∧
    5 = ((startV 0xE09E [(0, 0x35)]).reg 0).toNat % 16 ∧ (withKeys (startV 0xE09E [(0, 0x35)]) [5]).key[5] = true ∧
    (startV 0xE09E [(0, 0x35)]).key[5] = false ∧ decodeWord (startV 0x332A [(3, 0x2A)]).fetchWord = .ok (.seImm 3 0x2A) :=
  ⟨rfl, by decide, by decide, by decide, by decide, by decide, by decide, by decide, by decide⟩

/-- RandomIsTheInputByteMasked. -/
theorem test_witness_rnd : decodeWord (start 0xC30F).fetchWord = .ok (.rnd 3 0x0F) ∧ (start 0xC30F).port.schedule = [] := by decide

/-- LoadAfterStoreRestoresTheRegisters: the state the store leaves is itself such a state. -/
theorem test_witness_load_after_store : (start 0).mem.wf = true ∧
    ∃ t r : State, exec (.storeRegs 15) (start 0) = .next t ∧ r.mem = t.mem ∧ r.i = t.i :=
  ⟨by decide, _, _, rfl, rfl, rfl⟩

/-- DrawInvertsExactlyTheCoveredPixels, both clauses on VF: a covered pixel that is lit; no pixel lit. -/
theorem test_witness_draw :
    (∃ px py, spriteCovers (withPixel (withData (start 0) 0x300 [0x80]) 0 0) 0 1 1 px py ∧
      (withPixel (withData (start 0) 0x300 [0x80]) 0 0).disp.pixel px py = true) ∧
    ¬ ∃ px py, spriteCovers (withData (start 0) 0x300 [0x80]) 0 1 1 px py ∧
      (withData (start 0) 0x300 [0x80]).disp.pixel px py = true := by
  refine ⟨⟨0, 0, ⟨0, 0, by decide⟩, by decide⟩, ?_⟩
  rintro ⟨px, py, ⟨r, c, hr, hc, -, rfl, rfl⟩, h⟩
  have : r = 0 := by simpa using hr
  subst this
  revert c
  decide

/-- The two statements on FX0A: no key pressed; key 0 the lowest, and key 15. -/
theorem test_witness_wait : decodeWord (start 0xF30A).fetchWord = .ok (.ldVxK 3) ∧ (∀ k, (h : k < 16) → (start 0xF30A).key[k] = false) ∧
    (withKeys (start 0xF30A) [0, 7]).key[0] = true ∧ (withKeys (start 0xF30A) [15]).key[15] = true ∧
    ∀ j, (h : j < 15) → (withKeys (start 0xF30A) [15]).key[j] = false := by decide

/-- SETKEY at both sides of its bound; LOAD at its four lengths (the images LoadIsTheSameFromEveryState accepts: test_wf_refuses_image_of_3585). -/
theorem test_witness_bounds : 15 ≤ 15 ∧ 15 < 16 ∧ 1 ≤ [(0x12 : Byte)].length ∧ [(0x12 : Byte)].length ≤ 3584 ∧
    (List.replicate 3584 (1 : Byte)).length ≤ 3584 ∧ ([] : List Byte).length = 0 ∧ 3584 < (List.replicate 3585 (1 : Byte)).length := by
  rw [List.length_replicate, List.length_replicate]
  decide

end Sys2Proof.Tests
end

section
/-! SUPPORT. STEP (40_fetch_decode_execute.md R90): its two outcomes, and that every instruction answers a next state. -/

namespace Sys2Proof.Machine

/-- No instruction faults or is refused (R90, 60_exceptions.md R170): only a call, a return and the wait for a key choose
between outcomes, and each choice is a next state. -/
theorem exec_answers_next (i : Instr) (s : State) : ∃ t, exec i s = .next t := by
  cases i with
  | call nnn =>
    simp only [exec, execCall]
    split
    · exact ⟨_, rfl⟩
    · exact ⟨_, rfl⟩
  | ret =>
    simp only [exec, execRet]
    split
    · exact ⟨_, rfl⟩
    · exact ⟨_, rfl⟩
  | ldVxK x =>
    simp only [exec, execLdVxK]
    split
    · exact ⟨_, rfl⟩
    · exact ⟨_, rfl⟩
  | _ => exact ⟨_, rfl⟩

/-- A recognised word: its instruction is executed after the advance. -/
theorem stepCommand_of_decoded {s : State} {i : Instr} (rnd : Byte) (h : decodeWord s.fetchWord = .ok i) :
    stepCommand rnd s = exec i (s.beginStep rnd) := by
  simp only [stepCommand, h]

/-- An unrecognised word: the advance and the report (R95). -/
theorem stepCommand_of_rejected {s : State} {e : DecodeError} (rnd : Byte) (h : decodeWord s.fetchWord = .error e) :
    stepCommand rnd s = .next ((s.beginStep rnd).report (.unrecognized s.fetchWord)) := by
  simp only [stepCommand, h, unrecognised]

/-- STEP always completes (R90). -/
theorem stepCommand_answers_next (rnd : Byte) (s : State) : ∃ t, stepCommand rnd s = .next t := by
  cases h : decodeWord s.fetchWord with
  | ok i => exact stepCommand_of_decoded rnd h ▸ exec_answers_next i _
  | error e => exact ⟨_, stepCommand_of_rejected rnd h⟩

/-- Settles O11: STEP's two outcomes, split on what the fetched word decodes to, and its completion in each. -/
theorem stepIsFetchAdvanceDecodeExecute : Obligations.StepIsFetchAdvanceDecodeExecute := fun rnd s =>
  ⟨fun _ h => stepCommand_of_decoded rnd h, fun _ h => stepCommand_of_rejected rnd h, stepCommand_answers_next rnd s⟩

end Sys2Proof.Machine
end

section
/-! SUPPORT. Jumps and skips (41_control_flow.md R100 to R108): what a skip does to the state, from the condition `skipTaken`
gives it. -/

namespace Sys2Proof.Machine

/-- Zero extension keeps the number (00_scope.md R11). -/
theorem zext16_toNat {n : Nat} (h : n ≤ 16) (a : BitVec n) : (zext16 a).toNat = a.toNat :=
  BitVec.toNat_setWidth_of_le h

/-- The latch that a register value selects, by its number (45_keypad_timers.md R166, D21). -/
theorem State.keyDown_keyIndex (s : State) (a : Byte) :
    s.keyDown (keyIndex a) = s.key[a.toNat % 16]'(Nat.mod_lt _ (by decide)) := by
  simp only [State.keyDown, keyIndex_toNat]

/-- A skip whose Boolean says whether `c` holds moves `PC` exactly when `c` holds. -/
theorem State.skipIf_eq_of_iff (s : State) {b : Bool} {c : Prop} [Decidable c] (h : b = true ↔ c) :
    s.skipIf b = { s with pc := if c then s.pc + 2 else s.pc } := by
  simp only [State.skipIf_eq, h]

/-- Each of the six skips moves `PC` by 2 exactly when its condition holds, and changes nothing else (R104 to R107,
45_keypad_timers.md R160, R161); no other instruction has a condition. -/
theorem exec_of_skipTaken {i : Instr} {s : State} {c : Prop} [Decidable c] (h : skipTaken i s = some c) :
    exec i s = .next { s with pc := if c then s.pc + 2 else s.pc } := by
  suffices hb : ∃ b : Bool, exec i s = .next (s.skipIf b) ∧ (b = true ↔ c) by
    obtain ⟨b, hexec, hbc⟩ := hb
    rw [hexec, s.skipIf_eq_of_iff hbc]
  cases i with
  | seImm x kk => cases h; exact ⟨_, rfl, beq_iff_eq⟩
  | sneImm x kk => cases h; exact ⟨_, rfl, bne_iff_ne⟩
  | seReg x y u => cases h; exact ⟨_, rfl, beq_iff_eq⟩
  | sneReg x y u => cases h; exact ⟨_, rfl, bne_iff_ne⟩
  | skp x => cases h; exact ⟨_, rfl, by rw [State.keyDown_keyIndex]⟩
  | sknp x => cases h; exact ⟨_, rfl, by rw [Bool.not_eq_true', State.keyDown_keyIndex]⟩
  | _ => cases h

/-- A skip's condition reads registers and keys only: the fetch and the advance leave it as it was. -/
theorem skipTaken_beginStep (i : Instr) (s : State) (rnd : Byte) : skipTaken i (s.beginStep rnd) = skipTaken i s := rfl

/-- The instructions with a skip condition are the six of R104 to R107, R160 and R161. -/
theorem skipTaken_isSome_iff (i : Instr) (s : State) :
    (skipTaken i s).isSome = true ↔ i.pattern ∈ ["3XKK", "4XKK", "5XY0", "9XY0", "EX9E", "EXA1"] := by
  cases i <;> simp [skipTaken, Instr.pattern]

/-- Settles O34: the skip runs after the advance, so a taken one adds 2 to an address already advanced by 2 (R108). -/
theorem takenSkipMovesFourUntakenTwo : Obligations.TakenSkipMovesFourUntakenTwo := by
  refine ⟨skipTaken_isSome_iff, fun rnd s i c hi hc => ?_⟩
  classical
  have hstep : perform (.step rnd) s = exec i (s.beginStep rnd) := stepCommand_of_decoded rnd hi
  rw [exec_of_skipTaken ((skipTaken_beginStep i s rnd).trans hc)] at hstep
  exact ⟨_, hstep, rfl, fun taken => (if_pos taken).trans (BitVec.add_assoc s.pc 2 2), fun untaken => if_neg untaken⟩

/-- Settles O26: the jump sets `PC` alone, and the zero-extended operand is the operand as a number. -/
theorem jumpSetsPc : Obligations.JumpSetsPc := fun nnn s =>
  ⟨s.setPc (zext16 nnn), rfl, zext16_toNat (by decide) nnn, rfl⟩

/-- Settles O31: the two skips on an immediate operand, by their conditions. -/
theorem skipsOnImmediate : Obligations.SkipsOnImmediate := fun _ _ _ =>
  ⟨exec_of_skipTaken rfl, exec_of_skipTaken rfl⟩

end Sys2Proof.Machine
end

section
/-! SUPPORT. Loads and the addition without a flag (42_alu.md R121 to R123): each is one register write, so what a register
write leaves in its register and what it leaves unchanged is all there is to say. -/

namespace Sys2Proof.Machine

@[simp] theorem State.reg_setReg_same (s : State) (x : Nibble) (b : Byte) : (s.setReg x b).reg x = b := by
  rw [State.reg_setReg, if_pos rfl]

/-- A register write changes no other register, and no other part of the state. -/
theorem State.setReg_frame (s : State) (x : Nibble) (b : Byte) :
    (∀ k, k ≠ x → (s.setReg x b).reg k = s.reg k) ∧ s.setReg x b = { s with v := (s.setReg x b).v } :=
  ⟨fun k hk => by rw [State.reg_setReg, if_neg hk], rfl⟩

/-- Settles O35: each instruction is one register write, and the sum of two bytes is taken modulo 256. -/
theorem loadsAndAddImmediateLeaveTheFlag : Obligations.LoadsAndAddImmediateLeaveTheFlag := by
  intro x y kk s
  have hsum : ((s.setReg x (s.reg x + kk)).reg x).toNat = ((s.reg x).toNat + kk.toNat) % 256 := by
    rw [State.reg_setReg_same, BitVec.toNat_add]
  exact ⟨⟨_, rfl, s.reg_setReg_same x kk, s.setReg_frame x kk⟩,
    ⟨_, rfl, hsum, s.setReg_frame x (s.reg x + kk)⟩,
    ⟨_, rfl, s.reg_setReg_same x (s.reg y), s.setReg_frame x (s.reg y)⟩⟩

end Sys2Proof.Machine
end

section
/-! SUPPORT. The address register (43_index_memory.md R140). -/

namespace Sys2Proof.Machine

/-- Settles O43: the instruction is one write of `I`, and the zero-extended operand is the operand as a number. -/
theorem loadAddressRegister : Obligations.LoadAddressRegister := by
  intro nnn s
  have hi : (s.setI (zext16 nnn)).i.toNat = nnn.toNat := by
    rw [State.setI_i, zext16_toNat (by decide)]
  exact ⟨s.setI (zext16 nnn), rfl, hi, rfl⟩

end Sys2Proof.Machine
end

section
/-! SUPPORT. Clearing the display (44_display.md R150). -/

namespace Sys2Proof.Machine

/-- Settles O50: the instruction shows the blank display and sets `CHG`, whatever was shown before. -/
theorem clearBlanksTheDisplay : Obligations.ClearBlanksTheDisplay := by
  intro s
  have hblank : ∀ px < 64, ∀ py < 32, (s.showDisp Display.blank).disp.pixel px py = false := fun px _ py _ => by
    rw [State.showDisp_disp, Display.pixel_blank]
  exact ⟨s.showDisp Display.blank, rfl, hblank, s.showDisp_chg Display.blank, rfl⟩

end Sys2Proof.Machine
end

section
/-! SUPPORT. The wait for a key and the timer copies (45_keypad_timers.md R162 to R165): which key the wait finds, from the
latches themselves, and what it does with it. -/

namespace Sys2Proof.Machine

/-- With no latch set the scan finds no key. -/
theorem State.lowestKey_eq_none {s : State} (h : ∀ k, (hk : k < 16) → s.key[k] = false) : s.lowestKey = none :=
  s.lowestKey_none.mpr fun k => h k.toNat k.isLt

/-- The scan finds the key `k` when its latch is set and no latch below it is: a lower find would be set, and a higher one
would leave `k` clear. -/
theorem State.lowestKey_eq_some {s : State} {k : Nibble} (hk : s.keyDown k = true)
    (hlow : ∀ j, j.toNat < k.toNat → s.keyDown j = false) : s.lowestKey = some k := by
  cases hfound : s.lowestKey with
  | none => exact absurd hk (by simp [s.lowestKey_none.mp hfound k])
  | some m =>
    obtain ⟨hm, hmlow⟩ := State.lowestKey_some hfound
    have hmk : ¬m.toNat < k.toNat := fun hlt => by simp [hlow m hlt] at hm
    have hkm : ¬k.toNat < m.toNat := fun hlt => by simp [hmlow k hlt] at hk
    rw [BitVec.eq_of_toNat_eq (show m.toNat = k.toNat by omega)]

/-- With no key found the wait goes back to itself (R162). -/
theorem exec_ldVxK_of_none {s : State} (x : Nibble) (h : s.lowestKey = none) : exec (.ldVxK x) s = .next s.rewind := by
  simp only [exec, execLdVxK, h]

/-- With a key found the wait is one register write (R162). -/
theorem exec_ldVxK_of_some {s : State} {k : Nibble} (x : Nibble) (h : s.lowestKey = some k) :
    exec (.ldVxK x) s = .next (s.setReg x (k.setWidth 8)) := by
  simp only [exec, execLdVxK, h]

/-- The fetch and the advance read and write no key. -/
@[simp] theorem State.lowestKey_beginStep (s : State) (rnd : Byte) : (s.beginStep rnd).lowestKey = s.lowestKey := rfl

/-- Going back undoes the advance, so only the command interface keeps a trace of the STEP. -/
theorem State.rewind_beginStep (s : State) (rnd : Byte) :
    (s.beginStep rnd).rewind = { s with port := (s.beginStep rnd).port } := by
  have hpc : s.pc + 2 - 2 = s.pc := BitVec.add_sub_cancel s.pc 2
  simp only [State.rewind, State.setPc, State.beginStep, hpc]

/-- A STEP of the wait with no key found leaves the core's state as it was. -/
theorem stepCommand_ldVxK_of_none {s : State} {x : Nibble} (rnd : Byte) (hi : decodeWord s.fetchWord = .ok (.ldVxK x))
    (h : s.lowestKey = none) : stepCommand rnd s = .next { s with port := (s.beginStep rnd).port } := by
  rw [stepCommand_of_decoded rnd hi, exec_ldVxK_of_none x ((s.lowestKey_beginStep rnd).trans h), s.rewind_beginStep rnd]

/-- Settles O53: the two outcomes of the wait, by what the scan of the latches finds. -/
theorem waitForKeyRewindsOrTakesTheLowestKey : Obligations.WaitForKeyRewindsOrTakesTheLowestKey := by
  constructor
  · intro x s hnone
    have hscan : s.lowestKey = none := State.lowestKey_eq_none hnone
    exact ⟨exec_ldVxK_of_none x hscan, fun rnd hi => ⟨_, stepCommand_ldVxK_of_none rnd hi hscan, rfl⟩⟩
  · intro x s k hk hdown hlow
    have hscan : s.lowestKey = some ⟨k, hk⟩ := State.lowestKey_eq_some hdown fun j hj => hlow j.toNat hj
    have hindex : ((s.setReg x (BitVec.setWidth 8 (⟨k, hk⟩ : Nibble))).reg x).toNat = k := by
      rw [State.reg_setReg_same, BitVec.toNat_setWidth_of_le (by decide)]
      rfl
    exact ⟨_, exec_ldVxK_of_some x hscan, hindex, s.setReg_frame x _⟩

/-- Settles O55: the read of `DT` is one register write, and each of the two others one timer write. -/
theorem timerInstructionsCopy : Obligations.TimerInstructionsCopy := fun x s =>
  ⟨⟨s.setReg x s.dt, rfl, s.reg_setReg_same x s.dt, s.setReg_frame x s.dt⟩, rfl, rfl⟩

end Sys2Proof.Machine
end

section
/-! SUPPORT. The commands on the timers, the keys and `CHG` (60_exceptions.md R178, R179, R182): what each leaves in the
field it writes, and that it leaves all other state of the core. -/

namespace Sys2Proof.Machine

/-! ## TICK -/

theorem tickCommand_dt_toNat (s : State) : (tickCommand s).dt.toNat = s.dt.toNat - 1 := timerTick_toNat s.dt

theorem tickCommand_st_toNat (s : State) : (tickCommand s).st.toNat = s.st.toNat - 1 := timerTick_toNat s.st

/-- TICK writes the two timers and returns nothing. -/
theorem tickCommand_frame (s : State) :
    tickCommand s = { s with dt := (tickCommand s).dt, st := (tickCommand s).st, port := (tickCommand s).port } ∧
    (tickCommand s).port = { s.port with result := .nothing } := ⟨rfl, rfl⟩

theorem performAll_tick_cons (cs : List Command) (s : State) :
    performAll (.tick :: cs) s = performAll cs (tickCommand s) := rfl

/-- `n` TICKs take each timer down by `n`, floored at 0 (R178): the first takes 1, the others `n` from what it left. -/
theorem performAll_replicate_tick (n : Nat) (s : State) :
    ∃ t, performAll (List.replicate n .tick) s = .next t ∧ t.dt.toNat = s.dt.toNat - n ∧ t.st.toNat = s.st.toNat - n ∧
      t = { s with dt := t.dt, st := t.st, port := t.port } := by
  induction n generalizing s with
  | zero => exact ⟨s, rfl, rfl, rfl, rfl⟩
  | succ n ih =>
    obtain ⟨t, hrun, hdt, hst, hframe⟩ := ih (tickCommand s)
    rw [tickCommand_dt_toNat, Nat.sub_sub, Nat.add_comm 1 n] at hdt
    rw [tickCommand_st_toNat, Nat.sub_sub, Nat.add_comm 1 n] at hst
    exact ⟨t, (performAll_tick_cons _ s).trans hrun, hdt, hst, hframe⟩

/-- Settles O56: one TICK by what it does to each timer, and a row of TICKs by induction on their number. -/
theorem tickDecrementsBothTimersToZero : Obligations.TickDecrementsBothTimersToZero :=
  ⟨fun s => ⟨tickCommand s, rfl, tickCommand_dt_toNat s, tickCommand_st_toNat s, tickCommand_frame s⟩,
    performAll_replicate_tick⟩

/-! ## SETKEY and ACK_DISPLAY -/

/-- An index of a key: its latch takes the value (R179). -/
theorem setKeyCommand_of_lt {index : Nat} (h : index < 16) (pressed : Bool) (s : State) :
    setKeyCommand index pressed s = { s with key := s.key.setIfInBounds index pressed }.returns .nothing :=
  if_pos h

/-- Any other index: only the empty result (R179). -/
theorem setKeyCommand_of_ge {index : Nat} (h : 16 ≤ index) (pressed : Bool) (s : State) :
    setKeyCommand index pressed s = s.returns .nothing :=
  if_neg (Nat.not_lt.mpr h)

/-- Settles O57: SETKEY on the two sides of its bound, one write of a latch or none, and ACK_DISPLAY one write of `CHG`. -/
theorem setKeyAndAckDisplayWriteOneBitOrNothing : Obligations.SetKeyAndAckDisplayWriteOneBitOrNothing := by
  intro index pressed s
  refine ⟨fun h => ?_, fun h => congrArg Host.Outcome.next (setKeyCommand_of_ge h pressed s), rfl⟩
  have hlt : index < 16 := Nat.lt_succ_of_le h
  exact ⟨_, congrArg Host.Outcome.next (setKeyCommand_of_lt hlt pressed s), Vector.getElem_setIfInBounds_self hlt,
    fun k hk hne => Vector.getElem_setIfInBounds_ne hk hne.symm, rfl⟩

end Sys2Proof.Machine
end

section
/-! SUPPORT. Decoder, encoder and opcode table (30_encoding.md R70 to R86): each decodes what the other writes, and the table
says which words they are about. -/

namespace Sys2Proof

/-! ## Decoding an encoded instruction -/

/-- The dispatch reads class and sub-opcode back from an instruction's own word, and the operands are the word's fields. -/
theorem decodeWord_encodeWord (i : Instr) : decodeWord (encodeWord i) = .ok i := by
  cases i with
  | cls => rfl
  | ret => rfl
  | ldReg | orReg | andReg | xorReg | addReg | subReg | shr | subnReg | shl => simp [encodeWord, decodeWord, decodeClass8]
  | skp | sknp => simp [encodeWord, decodeWord, decodeClassE]
  | ldVxDt | ldVxK | ldDtVx | ldStVx | addI | ldF | ldB | storeRegs | loadRegs =>
    simp [encodeWord, decodeWord, decodeClassF]
  | _ => simp [encodeWord, decodeWord]

/-- Settles O1: the two bytes are put together to the instruction's word, which the dispatch reads back. -/
theorem decodeOfEncodeIsTheInstruction : Obligations.DecodeOfEncodeIsTheInstruction := by
  intro i rest
  simp only [encode, List.cons_append, List.nil_append, decode, wordOfBytes_bytes, decodeWord_encodeWord]

/-! ## Encoding a decoded word -/

theorem fieldClass_toNat (w : Word) : (fieldClass w).toNat = w.toNat / 4096 := by
  have := w.isLt
  simp only [fieldClass, BitVec.extractLsb'_toNat, Nat.shiftRight_eq_div_pow]
  omega

theorem fieldN_toNat (w : Word) : (fieldN w).toNat = w.toNat % 16 := by
  simp [fieldN, BitVec.extractLsb'_toNat]

theorem fieldKK_toNat (w : Word) : (fieldKK w).toNat = w.toNat % 256 := by
  simp [fieldKK, BitVec.extractLsb'_toNat]

/-- A word of a known class is that class and its address operand. -/
theorem formatNNN_of_class {w : Word} {c : Nibble} (hc : (fieldClass w).toNat = c.toNat) :
    formatNNN c (fieldNNN w) = w := by
  rw [← BitVec.eq_of_toNat_eq hc, formatNNN_fields]

/-- A word of a known class is that class, its X and its low byte. -/
theorem formatXKK_of_class {w : Word} {c : Nibble} (hc : (fieldClass w).toNat = c.toNat) :
    formatXKK c (fieldX w) (fieldKK w) = w := by
  rw [← BitVec.eq_of_toNat_eq hc, formatXKK_fields]

/-- A word of a known class is that class and its three lower nibbles. -/
theorem formatXYN_of_class {w : Word} {c : Nibble} (hc : (fieldClass w).toNat = c.toNat) :
    formatXYN c (fieldX w) (fieldY w) (fieldN w) = w := by
  rw [← BitVec.eq_of_toNat_eq hc, formatXYN_fields]

theorem encodeWord_of_decodeClass0 {w : Word} {i : Instr} (h : decodeClass0 w = .ok i) : encodeWord i = w := by
  unfold decodeClass0 at h
  split_ifs at h with h1 h2
  · cases h; exact h1.symm
  · cases h; exact h2.symm

theorem encodeWord_of_decodeClass8 {w : Word} {i : Instr} (hc : (fieldClass w).toNat = 8) (h : decodeClass8 w = .ok i) :
    encodeWord i = w := by
  have hw : ∀ n : Nibble, (fieldN w).toNat = n.toNat → formatXYN 8 (fieldX w) (fieldY w) n = w := fun n hn =>
    BitVec.eq_of_toNat_eq hn ▸ formatXYN_of_class hc
  unfold decodeClass8 at h
  split at h <;> cases h <;> exact hw _ ‹_›

theorem encodeWord_of_decodeClassE {w : Word} {i : Instr} (hc : (fieldClass w).toNat = 14) (h : decodeClassE w = .ok i) :
    encodeWord i = w := by
  have hw : ∀ kk, fieldKK w = kk → formatXKK 14 (fieldX w) kk = w := fun kk hkk => hkk ▸ formatXKK_of_class hc
  unfold decodeClassE at h
  split_ifs at h <;> cases h <;> exact hw _ ‹_›

theorem encodeWord_of_decodeClassF {w : Word} {i : Instr} (hc : (fieldClass w).toNat = 15) (h : decodeClassF w = .ok i) :
    encodeWord i = w := by
  have hw : ∀ kk, fieldKK w = kk → formatXKK 15 (fieldX w) kk = w := fun kk hkk => hkk ▸ formatXKK_of_class hc
  unfold decodeClassF at h
  split_ifs at h <;> cases h <;> exact hw _ ‹_›

theorem encodeWord_of_decodeWord {w : Word} {i : Instr} (h : decodeWord w = .ok i) : encodeWord i = w := by
  have hlt := (fieldClass w).isLt
  unfold decodeWord at h
  split at h
  case h_1 hc => exact encodeWord_of_decodeClass0 h
  case h_9 hc => exact encodeWord_of_decodeClass8 hc h
  case h_15 hc => exact encodeWord_of_decodeClassE hc h
  case h_16 => exact encodeWord_of_decodeClassF (by grind) h
  case h_2 | h_3 | h_11 | h_12 => cases h; exact formatNNN_of_class ‹_›
  case h_4 | h_5 | h_7 | h_8 | h_13 => cases h; exact formatXKK_of_class ‹_›
  case h_6 | h_10 | h_14 => cases h; exact formatXYN_of_class ‹_›

/-- Settles O2: class by class, the word is put together again from the fields the decoder took from it. -/
theorem encodeOfDecodedWordIsTheWord : Obligations.EncodeOfDecodedWordIsTheWord := fun _ _ h => encodeWord_of_decodeWord h

/-! ## The opcode table -/

/-- The word of every instruction lies in the row that bears the instruction's pattern. -/
theorem encodedRow (i : Instr) : Laws.EncodedRow.Statement i := by
  open Laws.EncodedRow in
  cases i with
  | cls => exact cls
  | ret => exact ret
  | jp => exact jp _
  | call => exact call _
  | seImm => exact seImm _ _
  | sneImm => exact sneImm _ _
  | seReg => exact seReg _ _ _
  | ldImm => exact ldImm _ _
  | addImm => exact addImm _ _
  | ldReg => exact ldReg _ _
  | orReg => exact orReg _ _
  | andReg => exact andReg _ _
  | xorReg => exact xorReg _ _
  | addReg => exact addReg _ _
  | subReg => exact subReg _ _
  | shr => exact shr _ _
  | subnReg => exact subnReg _ _
  | shl => exact shl _ _
  | sneReg => exact sneReg _ _ _
  | ldI => exact ldI _
  | jpV0 => exact jpV0 _
  | rnd => exact rnd _ _
  | drw => exact drw _ _ _
  | skp => exact skp _
  | sknp => exact sknp _
  | ldVxDt => exact ldVxDt _
  | ldVxK => exact ldVxK _
  | ldDtVx => exact ldDtVx _
  | ldStVx => exact ldStVx _
  | addI => exact addI _
  | ldF => exact ldF _
  | ldB => exact ldB _
  | storeRegs => exact storeRegs _
  | loadRegs => exact loadRegs _

/-- A decoded word lies in the row that bears the pattern of its instruction: it is that instruction's own word. -/
theorem exists_row_of_decodeWord {w : Word} {i : Instr} (h : decodeWord w = .ok i) :
    ∃ r ∈ opcodeTable, r.pattern = i.pattern ∧ w &&& r.mask = r.value := by
  obtain ⟨r, hr, hp, hm⟩ := encodedRow i
  rw [encodeWord_of_decodeWord h] at hm
  exact ⟨r, hr, hp, beq_iff_eq.mp hm⟩

/-- A row is known by its pattern. -/
theorem opcodeTable_pattern_inj : ∀ r ∈ opcodeTable, ∀ r' ∈ opcodeTable, r.pattern = r'.pattern → r = r' := by
  decide

/-- Bits of a word that a row's mask examines are the row's bits. -/
theorem extractLsb'_of_match {w mask value : Word} {start len : Nat} (h : w &&& mask = value)
    (hm : mask.extractLsb' start len = BitVec.allOnes len) : w.extractLsb' start len = value.extractLsb' start len := by
  rw [← h, BitVec.extractLsb'_and, hm, BitVec.and_allOnes]

theorem class_of_match {w mask value : Word} (h : w &&& mask = value) (hm : fieldClass mask = BitVec.allOnes 4) :
    fieldClass w = fieldClass value := extractLsb'_of_match h hm

theorem lowNibble_of_match {w mask value : Word} (h : w &&& mask = value) (hm : fieldN mask = BitVec.allOnes 4) :
    fieldN w = fieldN value := extractLsb'_of_match h hm

theorem lowByte_of_match {w mask value : Word} (h : w &&& mask = value) (hm : fieldKK mask = BitVec.allOnes 8) :
    fieldKK w = fieldKK value := extractLsb'_of_match h hm

/-- The word decodes to an instruction of the pattern. -/
def DecodesTo (w : Word) (pattern : String) : Prop := ∃ i, decodeWord w = .ok i ∧ i.pattern = pattern

theorem decodesTo_of_rowLow : ∀ r ∈ opcodeRowsLow, ∀ w, w &&& r.mask = r.value → DecodesTo w r.pattern := by
  simp only [opcodeRowsLow, List.forall_mem_cons, List.not_mem_nil]
  refine ⟨fun w h => ?_, fun w h => ?_, ?_⟩
  · exact ⟨.cls, (show w = 0x00E0 by rw [← h]; exact (BitVec.and_allOnes).symm) ▸ rfl, rfl⟩
  · exact ⟨.ret, (show w = 0x00EE by rw [← h]; exact (BitVec.and_allOnes).symm) ▸ rfl, rfl⟩
  · refine ⟨?_, ?_, ?_, ?_, ?_, ?_, ?_, by simp⟩
    all_goals
      intro w h
      exact ⟨_, by simp only [decodeWord, class_of_match h rfl]; rfl, rfl⟩

theorem decodesTo_of_row8 : ∀ r ∈ opcodeRows8, ∀ w, w &&& r.mask = r.value → DecodesTo w r.pattern := by
  simp only [opcodeRows8, List.forall_mem_cons, List.not_mem_nil]
  refine ⟨?_, ?_, ?_, ?_, ?_, ?_, ?_, ?_, ?_, by simp⟩
  all_goals
    intro w h
    exact ⟨_, by simp only [decodeWord, decodeClass8, class_of_match h rfl, lowNibble_of_match h rfl]; rfl, rfl⟩

theorem decodesTo_of_rowHigh : ∀ r ∈ opcodeRowsHigh, ∀ w, w &&& r.mask = r.value → DecodesTo w r.pattern := by
  simp only [opcodeRowsHigh, List.forall_mem_cons, List.not_mem_nil]
  refine ⟨?_, ?_, ?_, ?_, ?_, ?_, ?_, ?_, ?_, ?_, ?_, ?_, ?_, ?_, ?_, ?_, by simp⟩
  case refine_1 | refine_2 | refine_3 | refine_4 | refine_5 =>
    intro w h
    exact ⟨_, by simp only [decodeWord, class_of_match h rfl]; rfl, rfl⟩
  case refine_6 | refine_7 =>
    intro w h
    exact ⟨_, by simp only [decodeWord, decodeClassE, class_of_match h rfl, lowByte_of_match h rfl]; rfl, rfl⟩
  all_goals
    intro w h
    exact ⟨_, by simp only [decodeWord, decodeClassF, class_of_match h rfl, lowByte_of_match h rfl]; rfl, rfl⟩

theorem decodesTo_of_row {r : OpcodeRow} (hr : r ∈ opcodeTable) {w : Word} (h : w &&& r.mask = r.value) :
    DecodesTo w r.pattern := by
  rw [opcodeTable, List.mem_append, List.mem_append] at hr
  obtain (hr | hr) | hr := hr
  · exact decodesTo_of_rowLow r hr w h
  · exact decodesTo_of_row8 r hr w h
  · exact decodesTo_of_rowHigh r hr w h

/-- A word decodes to a row's pattern exactly when it matches the row. -/
theorem decodesTo_iff_match {r : OpcodeRow} (hr : r ∈ opcodeTable) (w : Word) :
    DecodesTo w r.pattern ↔ w &&& r.mask = r.value := by
  constructor
  · rintro ⟨i, hi, hp⟩
    obtain ⟨r', hr', hp', hm⟩ := exists_row_of_decodeWord hi
    rwa [opcodeTable_pattern_inj r' hr' r hr (hp'.trans hp)] at hm
  · exact decodesTo_of_row hr

/-- Settles O3: the rows are told apart by their patterns, so a decoded word matches no other row than its own. -/
theorem decoderFollowsTheOpcodeTable : Obligations.DecoderFollowsTheOpcodeTable :=
  ⟨rfl, fun _ hr w => decodesTo_iff_match hr w⟩

/-! ## The words that are no instruction -/

/-- Every rejecting branch of the dispatch names the word; the other branches give an instruction. -/
theorem eq_unrecognized_of_decodeWord {w : Word} {e : DecodeError} (h : decodeWord w = .error e) :
    e = .unrecognized w := by
  unfold decodeWord decodeClass0 decodeClass8 decodeClassE decodeClassF at h
  (repeat' split at h) <;> cases h <;> rfl

/-- Settles O4: a decoded word matches exactly the row of its pattern, and a word that matched a row would decode. -/
theorem everyWordIsOneInstructionOrUnrecognised : Obligations.EveryWordIsOneInstructionOrUnrecognised := by
  intro w
  cases h : decodeWord w with
  | ok i =>
    obtain ⟨r, hr, hp, hm⟩ := exists_row_of_decodeWord h
    refine .inl ⟨i, rfl, r, hr, hp, fun r' hr' => ⟨fun hm' => ?_, fun heq => heq ▸ hm⟩⟩
    obtain ⟨i', hi', hp'⟩ := decodesTo_of_row hr' hm'
    cases h.symm.trans hi'
    exact opcodeTable_pattern_inj r' hr' r hr (hp'.symm.trans hp.symm)
  | error e =>
    refine .inr ⟨congrArg _ (eq_unrecognized_of_decodeWord h), fun r hr hm => ?_⟩
    obtain ⟨i, hi, -⟩ := decodesTo_of_row hr hm
    exact nomatch h.symm.trans hi

theorem decodeClass0_rejects_iff (w : Word) :
    decodeClass0 w = .error (.unrecognized w) ↔ w ≠ 0x00E0 ∧ w ≠ 0x00EE := by
  unfold decodeClass0
  split_ifs with hcls hret
  · exact iff_of_false nofun fun h => h.1 hcls
  · exact iff_of_false nofun fun h => h.2 hret
  · exact iff_of_true rfl ⟨hcls, hret⟩

theorem decodeClass8_rejects_iff (w : Word) :
    decodeClass8 w = .error (.unrecognized w) ↔ w.toNat % 16 ∈ [0x8, 0x9, 0xA, 0xB, 0xC, 0xD, 0xF] := by
  rw [← fieldN_toNat]
  have hlt := (fieldN w).isLt
  unfold decodeClass8
  generalize (fieldN w).toNat = n at hlt
  interval_cases n <;> simp

theorem decodeClassE_rejects_iff (w : Word) :
    decodeClassE w = .error (.unrecognized w) ↔ w.toNat % 256 ∉ [0x9E, 0xA1] := by
  rw [← fieldKK_toNat]
  simp only [decodeClassE, ← BitVec.toNat_inj, List.mem_cons, List.not_mem_nil]
  split_ifs <;> simp_all

theorem decodeClassF_rejects_iff (w : Word) : decodeClassF w = .error (.unrecognized w) ↔
    w.toNat % 256 ∉ [0x07, 0x0A, 0x15, 0x18, 0x1E, 0x29, 0x33, 0x55, 0x65] := by
  rw [← fieldKK_toNat]
  simp only [decodeClassF, ← BitVec.toNat_inj, List.mem_cons, List.not_mem_nil]
  split_ifs <;> simp_all

/-- Settles O5: class by class, what the secondary dispatch rejects; the other twelve classes reject nothing. -/
theorem unrecognisedWordsAreTheListedOnes : Obligations.UnrecognisedWordsAreTheListedOnes := by
  intro w
  rw [← decodeClass0_rejects_iff, ← decodeClass8_rejects_iff, ← decodeClassE_rejects_iff, ← decodeClassF_rejects_iff,
    ← fieldClass_toNat]
  have hlt := (fieldClass w).isLt
  unfold decodeWord
  generalize (fieldClass w).toNat = c at hlt
  interval_cases c <;> simp

/-- Settles O6: each word is decoded. -/
theorem wordsWrittenFromTheEncodingsDecode : Obligations.WordsWrittenFromTheEncodingsDecode := by
  unfold Obligations.WordsWrittenFromTheEncodingsDecode
  decide

end Sys2Proof
end

section
/-! SUPPORT. What an instruction can do to the state, said once (files 41 to 45), and from it what each instruction leaves
unchanged (10_state.md sections 1 to 7, 20_memory.md R67, 60_exceptions.md R170). -/

namespace Sys2Proof.Machine

/-- What the instruction `i` can leave of the state `s`: one constructor for each kind of update, with the instructions that
make it. -/
inductive Effect (s : State) : Instr → State → Prop
  | cls (d : Display) : Effect s .cls (s.showDisp d)
  | draw (x y n : Nibble) (d : Display) (hit : Bool) : Effect s (.drw x y n) ((s.showDisp d).setFlag hit)
  | setReg {i : Instr} (x : Nibble) (b : Byte) (hx : i.mayWriteReg x = true) (hf : i.writesFlag = false) :
      Effect s i (s.setReg x b)
  | setRegFlag {i : Instr} (x : Nibble) (b : Byte) (f : Bool) (hx : i.mayWriteReg x = true)
      (hf : i.mayWriteReg 15 = true) : Effect s i (s.setRegFlag x b f)
  | setRegs (x : Nibble) (v : Vector Byte 16) (hv : ∀ k : Nibble, x.toNat < k.toNat → v[k.toNat]'k.isLt = s.reg k) :
      Effect s (.loadRegs x) { s with v := v }
  | setPc {i : Instr} (a : Word) (hi : i.setsPc = true) (hf : i.writesFlag = false) : Effect s i (s.setPc a)
  | call (nnn : Imm12) (a : Word) (hroom : s.sp.toNat < 16) : Effect s (.call nnn) ((s.push s.pc).setPc a)
  | callIgnored (nnn : Imm12) : Effect s (.call nnn) (s.report .stackOverflow)
  | ret (hsome : 0 < s.sp.toNat) : Effect s .ret s.popPc
  | retIgnored : Effect s .ret (s.report .stackUnderflow)
  | ldI (nnn : Imm12) (a : Word) : Effect s (.ldI nnn) (s.setI a)
  | addI (x : Nibble) (a : Word) : Effect s (.addI x) (s.setI a)
  | ldF (x : Nibble) (a : Word) : Effect s (.ldF x) (s.setI a)
  | ldB (x : Nibble) (bs : List Byte) : Effect s (.ldB x) (s.setMem (s.mem.writeMany s.i bs))
  | storeRegs (x : Nibble) (bs : List Byte) : Effect s (.storeRegs x) (s.setMem (s.mem.writeMany s.i bs))
  | setDt (x : Nibble) (b : Byte) : Effect s (.ldDtVx x) (s.setDt b)
  | setSt (x : Nibble) (b : Byte) : Effect s (.ldStVx x) (s.setSt b)

/-- A skip is a write of `PC`, of the same value when it is not taken. -/
theorem State.skipIf_eq_setPc (s : State) (c : Bool) : s.skipIf c = s.setPc (if c then s.pc + 2 else s.pc) :=
  s.skipIf_eq c

theorem Effect.skipIf {s : State} {i : Instr} (c : Bool) (hi : i.setsPc = true) (hf : i.writesFlag = false) :
    Effect s i (s.skipIf c) :=
  s.skipIf_eq_setPc c ▸ .setPc _ hi hf

theorem State.reg_setRegs_of_ge (s : State) {bs : List Byte} {k : Nibble} (h : bs.length ≤ k.toNat) :
    (s.setRegs bs).reg k = s.reg k := by
  rw [State.reg_setRegs, List.getD_eq_default _ _ h]

/-! ## The instructions with two outcomes -/

theorem exec_call_of_lt {s : State} (nnn : Imm12) (h : s.sp.toNat < 16) :
    exec (.call nnn) s = .next ((s.push s.pc).setPc (zext16 nnn)) := if_pos h

theorem exec_call_of_ge {s : State} (nnn : Imm12) (h : 16 ≤ s.sp.toNat) :
    exec (.call nnn) s = .next (s.report .stackOverflow) := if_neg (Nat.not_lt.mpr h)

theorem exec_ret_of_pos {s : State} (h : 0 < s.sp.toNat) : exec .ret s = .next s.popPc := if_pos h

theorem exec_ret_of_zero {s : State} (h : s.sp.toNat = 0) : exec .ret s = .next (s.report .stackUnderflow) :=
  if_neg (Nat.not_lt.mpr h.le)

/-- Every outcome of an instruction is one of its effects. -/
theorem exec_effect {i : Instr} {s t : State} (h : exec i s = .next t) : Effect s i t := by
  cases i with
  | call nnn =>
    cases Nat.lt_or_ge s.sp.toNat 16 with
    | inl hlt => cases (exec_call_of_lt nnn hlt).symm.trans h; exact .call nnn _ hlt
    | inr hge => cases (exec_call_of_ge nnn hge).symm.trans h; exact .callIgnored nnn
  | ret =>
    cases Nat.eq_zero_or_pos s.sp.toNat with
    | inl hzero => cases (exec_ret_of_zero hzero).symm.trans h; exact .retIgnored
    | inr hpos => cases (exec_ret_of_pos hpos).symm.trans h; exact .ret hpos
  | ldVxK x =>
    cases hk : s.lowestKey with
    | none => cases (exec_ldVxK_of_none x hk).symm.trans h; exact .setPc _ rfl rfl
    | some k => cases (exec_ldVxK_of_some x hk).symm.trans h; exact .setReg x _ (beq_self_eq_true x) rfl
  | cls => cases h; exact .cls _
  | drw x y n => cases h; exact .draw x y n _ _
  | jp | jpV0 => cases h; exact .setPc _ rfl rfl
  | seImm | sneImm | seReg | sneReg | skp | sknp => cases h; exact .skipIf _ rfl rfl
  | ldImm x | addImm x | ldReg x | orReg x | andReg x | xorReg x | rnd x | ldVxDt x =>
    cases h; exact .setReg x _ (beq_self_eq_true x) rfl
  | addReg x | subReg x | shr x | subnReg x | shl x =>
    cases h; exact .setRegFlag x _ _ (by simp [Instr.mayWriteReg]) (by simp [Instr.mayWriteReg])
  | loadRegs x =>
    obtain rfl := Host.Outcome.next.inj h
    exact .setRegs x _ fun k hk => State.reg_setRegs_of_ge s (by simpa using hk)
  | ldI nnn => cases h; exact .ldI nnn _
  | addI x => cases h; exact .addI x _
  | ldF x => cases h; exact .ldF x _
  | ldB x => cases h; exact .ldB x _
  | storeRegs x => cases h; exact .storeRegs x _
  | ldDtVx x => cases h; exact .setDt x _
  | ldStVx x => cases h; exact .setSt x _

/-! ## Frames -/

theorem flagByte_eq_zero_or_one (f : Bool) : flagByte f = 0 ∨ flagByte f = 1 := by
  cases f with
  | false => exact .inl rfl
  | true => exact .inr rfl

/-- A register the instruction may not write is none of those it writes. -/
theorem ne_of_mayWriteReg {i : Instr} {x k : Nibble} (hx : i.mayWriteReg x = true) (hk : i.mayWriteReg k = false) : k ≠ x :=
  fun h => by simp [h, hx] at hk

theorem Effect.reg {s t : State} {i : Instr} (h : Effect s i t) {k : Nibble} (hk : i.mayWriteReg k = false) :
    t.reg k = s.reg k := by
  cases h with
  | setReg x b hx _ => rw [State.reg_setReg, if_neg (ne_of_mayWriteReg hx hk)]
  | setRegFlag x b f hx hf =>
    rw [State.reg_setRegFlag, if_neg (ne_of_mayWriteReg hf hk), if_neg (ne_of_mayWriteReg hx hk)]
  | draw x y n d hit => exact (State.reg_setFlag _ k hit).trans (if_neg (beq_eq_false_iff_ne.mp hk))
  | setRegs x v hv => exact hv k (Nat.lt_of_not_le (of_decide_eq_false hk))
  | _ => rfl

@[simp] theorem State.reg_setFlag_flag (s : State) (f : Bool) : (s.setFlag f).reg 15 = flagByte f := by
  rw [State.reg_setFlag, if_pos rfl]

theorem Effect.flag {s t : State} {i : Instr} (h : Effect s i t) (hi : i.writesFlag = true) :
    t.reg 15 = 0 ∨ t.reg 15 = 1 := by
  cases h with
  | setRegFlag x b f _ _ => exact (s.setReg x b).reg_setFlag_flag f ▸ flagByte_eq_zero_or_one f
  | draw x y n d hit => exact (s.showDisp d).reg_setFlag_flag hit ▸ flagByte_eq_zero_or_one hit
  | setReg x b _ hf => exact absurd (hf.symm.trans hi) Bool.false_ne_true
  | setPc a _ hf => exact absurd (hf.symm.trans hi) Bool.false_ne_true
  | _ => exact absurd hi Bool.false_ne_true

/-- Settles O18: each effect writes its own registers, and the flag last. -/
theorem onlyDestinationRegistersChange : Obligations.OnlyDestinationRegistersChange := fun _ _ _ h =>
  ⟨fun _ hk => (exec_effect h).reg hk, (exec_effect h).flag⟩

/-- Settles O19: of the effects only a write of `PC`, a call and a return move it. -/
theorem onlyControlInstructionsMovePcAfterTheAdvance : Obligations.OnlyControlInstructionsMovePcAfterTheAdvance := by
  intro i s t h hi
  cases exec_effect h with
  | setPc a hset _ => exact absurd (hi.symm.trans hset) Bool.false_ne_true
  | call nnn a _ => exact absurd hi Bool.false_ne_true.symm
  | ret _ => exact absurd hi Bool.false_ne_true.symm
  | _ => rfl

/-- Settles O20: of the effects only a write of `I` changes it. -/
theorem onlyThreeInstructionsWriteTheAddressRegister : Obligations.OnlyThreeInstructionsWriteTheAddressRegister := by
  intro i s t h hLdI hAddI hLdF
  cases exec_effect h with
  | ldI nnn a => exact absurd rfl (hLdI nnn)
  | addI x a => exact absurd rfl (hAddI x)
  | ldF x a => exact absurd rfl (hLdF x)
  | _ => rfl

/-- Settles O21: a push writes the one entry at `SP`, a pop leaves its entry in place. -/
theorem onlyCallAndReturnUseTheStack : Obligations.OnlyCallAndReturnUseTheStack := by
  intro i s t h
  cases exec_effect h with
  | call nnn a _ =>
    exact ⟨fun hcall => absurd rfl (hcall nnn), fun k hk hne => Vector.getElem_setIfInBounds_ne hk hne.symm⟩
  | ret _ => exact ⟨fun _ => ⟨rfl, fun hret => absurd rfl hret⟩, fun _ _ _ => rfl⟩
  | _ => exact ⟨fun _ => ⟨rfl, fun _ => rfl⟩, fun _ _ _ => rfl⟩

/-- Settles O22: of the effects only a timer write changes its timer, and none a key. -/
theorem timersAndKeysUnderInstructions : Obligations.TimersAndKeysUnderInstructions := by
  intro i s t h
  cases exec_effect h with
  | setDt x b => exact ⟨fun hdt => absurd rfl (hdt x), fun _ => rfl, rfl⟩
  | setSt x b => exact ⟨fun _ => rfl, fun hst => absurd rfl (hst x), rfl⟩
  | _ => exact ⟨fun _ => rfl, fun _ => rfl, rfl⟩

theorem Effect.disp_chg {s t : State} {i : Instr} (h : Effect s i t) (hcls : i ≠ .cls) (hdrw : ∀ x y n, i ≠ .drw x y n) :
    t.disp = s.disp ∧ t.chg = s.chg := by
  cases h with
  | cls d => exact absurd rfl hcls
  | draw x y n d hit => exact absurd rfl (hdrw x y n)
  | _ => exact ⟨rfl, rfl⟩

/-- Settles O23: of the effects only a shown display writes `DISP` and `CHG`, and it sets `CHG`. -/
theorem onlyClearAndDrawTouchTheDisplay : Obligations.OnlyClearAndDrawTouchTheDisplay := by
  intro i s t h
  have hshown : (i = .cls ∨ ∃ x y n, i = .drw x y n) → t.chg = true := by
    rintro (rfl | ⟨x, y, n, rfl⟩)
    · cases h; rfl
    · cases h; rfl
  refine ⟨(exec_effect h).disp_chg, hshown, fun hchg => ?_⟩
  by_cases hi : i = .cls ∨ ∃ x y n, i = .drw x y n
  · exact hshown hi
  · obtain ⟨hcls, hdrw⟩ := not_or.mp hi
    rw [((exec_effect h).disp_chg hcls fun x y n heq => hdrw ⟨x, y, n, heq⟩).2, hchg]

/-- Settles O24: of the effects only the two stores write memory. -/
theorem onlyTwoInstructionsStoreToMemory : Obligations.OnlyTwoInstructionsStoreToMemory := by
  intro i s t h hLdB hStore
  cases exec_effect h with
  | ldB x bs => exact absurd rfl (hLdB x)
  | storeRegs x bs => exact absurd rfl (hStore x)
  | _ => exact ⟨rfl, fun _ => rfl⟩

/-- Settles O25: of the effects only a refused call and a refused return write the interface, and only its output. -/
theorem instructionsLeaveTheCommandInterface : Obligations.InstructionsLeaveTheCommandInterface := by
  intro i s t h
  cases exec_effect h with
  | callIgnored nnn => exact ⟨rfl, fun hcall => absurd rfl (hcall nnn), fun _ _ => .inr rfl, nofun, rfl⟩
  | retIgnored => exact ⟨rfl, fun _ hret => absurd rfl hret, nofun, fun _ => .inr rfl, rfl⟩
  | _ => exact ⟨rfl, fun _ _ => rfl, fun _ _ => .inl rfl, fun _ => .inl rfl, rfl⟩

end Sys2Proof.Machine
end

section
/-! SUPPORT. Memory in canonical form, the address of a cell and the word at `PC` (20_memory.md sections 1 and 2), the state
after RESET (10_state.md R37), and the invariant through every command (10_state.md R28). -/

namespace Sys2Proof.Machine

/-! ## The canonical form is unique -/

/-- A listed cell does not read as an unlisted one, so a memory that lists only higher cells reads it otherwise. -/
theorem Memory.byteAt_ne_of_listed {a : Nat} {x : Byte} {m m' : Memory} (hx : x ≠ Memory.unlisted a)
    (hm' : Memory.wfFrom (a + 1) m' = true) : Memory.byteAt ((a, x) :: m) a ≠ m'.byteAt a := by
  rw [Memory.byteAt_below hm' (Nat.lt_succ_self a), Memory.byteAt, if_pos rfl]
  exact hx

/-- Where two memories list the same lowest cell and read alike, so do their remainders: at that cell both read as unlisted. -/
theorem Memory.byteAt_tails_eq {a : Nat} {x y : Byte} {m m' : Memory} (hm : Memory.wfFrom (a + 1) m = true)
    (hm' : Memory.wfFrom (a + 1) m' = true)
    (h : ∀ c < 4096, Memory.byteAt ((a, x) :: m) c = Memory.byteAt ((a, y) :: m') c) :
    ∀ c < 4096, m.byteAt c = m'.byteAt c := by
  intro c hc
  by_cases hac : a = c
  · rw [Memory.byteAt_below hm (by omega), Memory.byteAt_below hm' (by omega)]
  · simpa [Memory.byteAt, hac] using h c hc

theorem Memory.ext_byteAt {lo : Nat} {m m' : Memory} (hm : Memory.wfFrom lo m = true) (hm' : Memory.wfFrom lo m' = true)
    (h : ∀ a < 4096, m.byteAt a = m'.byteAt a) : m = m' := by
  induction m generalizing lo m' with
  | nil =>
    cases m' with
    | nil => rfl
    | cons e' m' =>
      obtain ⟨-, hb, hy, -⟩ := Memory.wfFrom_cons.mp hm'
      exact absurd (h _ hb).symm (Memory.byteAt_ne_of_listed hy rfl)
  | cons e m ih =>
    obtain ⟨a, x⟩ := e
    obtain ⟨-, ha, hx, htail⟩ := Memory.wfFrom_cons.mp hm
    cases m' with
    | nil => exact absurd (h a ha) (Memory.byteAt_ne_of_listed hx rfl)
    | cons e' m' =>
      obtain ⟨b, y⟩ := e'
      obtain ⟨-, hb, hy, htail'⟩ := Memory.wfFrom_cons.mp hm'
      rcases Nat.lt_trichotomy a b with hab | rfl | hba
      · have hfrom : Memory.wfFrom (a + 1) ((b, y) :: m') = true := Memory.wfFrom_cons.mpr ⟨hab, hb, hy, htail'⟩
        exact absurd (h a ha) (Memory.byteAt_ne_of_listed hx hfrom)
      · have hxy : x = y := by simpa [Memory.byteAt] using h a ha
        rw [hxy, ih htail htail' (Memory.byteAt_tails_eq htail htail' h)]
      · have hfrom : Memory.wfFrom (b + 1) ((a, x) :: m) = true := Memory.wfFrom_cons.mpr ⟨hba, ha, hx, htail⟩
        exact absurd (h b hb).symm (Memory.byteAt_ne_of_listed hy hfrom)

/-- Settles O10: the first cell where two lists differ is listed in one of them and reads otherwise in the other. -/
theorem equalReadsMeanEqualMemories : Obligations.EqualReadsMeanEqualMemories := fun _ _ hm hm' h =>
  Memory.ext_byteAt hm hm' h

/-! ## Addresses and the fetch -/

theorem wordOfBytes_toNat (hi lo : Byte) : (wordOfBytes hi lo).toNat = 256 * hi.toNat + lo.toNat := by
  rw [wordOfBytes, BitVec.toNat_append, Nat.shiftLeft_eq, Nat.mul_comm, ← Nat.two_pow_add_eq_or_of_lt lo.isLt]

/-- Settles O16: an address is taken modulo 4096, and the fetch reads the cell of `PC` and the next one. -/
theorem addressesAreTruncatedAndFetchIsBigEndian : Obligations.AddressesAreTruncatedAndFetchIsBigEndian := by
  intro s
  refine ⟨cellOf_ea s, ?_⟩
  have hnext : cellOf (s.pc + 1) = (s.pc.toNat + 1) % 4096 := by
    rw [show (1 : Word) = BitVec.ofNat 16 1 from rfl, cellOf_add, cellOf, Config.memSize, Nat.mod_add_mod]
  rw [State.fetchWord, Memory.read2, wordOfBytes_toNat, Memory.read1, Memory.read1, hnext, cellOf, Config.memSize]

/-! ## The state after RESET -/

theorem State.newCore_customary : State.reset = State.newCore Font.customary := by
  rw [State.newCore, Memory.withFont_customary]
  rfl

/-- Settles O7: the listed values are those of `State.newCore`, whose memory is the font and zeros. -/
theorem resetLeavesTheListedValues : Obligations.ResetLeavesTheListedValues := by
  refine ⟨?_, State.newCore_customary⟩
  rintro font s rfl
  refine ⟨fun k => Vector.getElem_replicate _, rfl, rfl, rfl, fun k hk => Vector.getElem_replicate _, rfl, rfl,
    Display.pixel_blank, rfl, fun k => Vector.getElem_replicate _, fun j hj => Memory.byteAt_withFont font hj,
    fun a _ ha => Memory.byteAt_withFont_outside font ha, rfl⟩

theorem State.newCore_inv (font : Font) : (State.newCore font).Inv := ⟨Nat.zero_le _, Memory.withFont_wf font⟩

/-- Settles O8: the stack of a new core is empty, and writing the font into an empty memory keeps the canonical form. -/
theorem resetMeetsTheInvariant : Obligations.ResetMeetsTheInvariant :=
  ⟨State.newCore_customary ▸ State.newCore_inv _, State.newCore_inv⟩

/-! ## The invariant through every command -/

/-- With room on the stack the count of entries does not wrap. -/
theorem sp_succ_toNat {s : State} (h : s.sp.toNat < 16) : (s.sp + 1).toNat = s.sp.toNat + 1 := by
  rw [BitVec.toNat_add]
  exact Nat.mod_eq_of_lt (by simp; omega)

theorem sp_pred_toNat {s : State} (h : 0 < s.sp.toNat) : (s.sp - 1).toNat = s.sp.toNat - 1 := BitVec.toNat_sub_of_le h

/-- A call pushes only where there is room, a pop takes one entry off, and a store keeps the canonical form. -/
theorem Effect.inv {s t : State} {i : Instr} (h : Effect s i t) (hs : s.Inv) : t.Inv := by
  obtain ⟨hsp, hmem⟩ := hs
  cases h with
  | call nnn a hroom =>
    refine ⟨?_, hmem⟩
    rw [State.setPc_sp, State.push_sp, sp_succ_toNat hroom, Config.stackDepth]
    exact hroom
  | ret hsome =>
    refine ⟨?_, hmem⟩
    rw [State.popPc_sp, sp_pred_toNat hsome]
    exact (Nat.sub_le _ 1).trans hsp
  | ldB x bs => exact ⟨hsp, Memory.writeMany_wf _ bs hmem⟩
  | storeRegs x bs => exact ⟨hsp, Memory.writeMany_wf _ bs hmem⟩
  | _ => exact ⟨hsp, hmem⟩

theorem stepCommand_inv {rnd : Byte} {s t : State} (hs : s.Inv) (h : stepCommand rnd s = .next t) : t.Inv := by
  cases hi : decodeWord s.fetchWord with
  | ok i =>
    rw [stepCommand_of_decoded rnd hi] at h
    exact (exec_effect h).inv hs
  | error e =>
    cases (stepCommand_of_rejected rnd hi).symm.trans h
    exact hs

theorem loadCommand_inv (image : List Byte) {s : State} (hs : s.Inv) : (loadCommand image s).Inv := by
  unfold loadCommand
  split_ifs
  · exact hs
  · exact hs
  · exact ⟨Nat.zero_le _, Memory.writeMany_wf _ image (Memory.withFont_wf s.font)⟩

theorem setKeyCommand_inv (index : Nat) (pressed : Bool) {s : State} (hs : s.Inv) : (setKeyCommand index pressed s).Inv := by
  unfold setKeyCommand
  split
  · exact hs
  · exact hs

theorem perform_inv {c : Command} {s t : State} (hs : s.Inv) (h : perform c s = .next t) : t.Inv := by
  cases c with
  | reset => cases h; exact State.newCore_inv s.font
  | load image => cases h; exact loadCommand_inv image hs
  | step rnd => exact stepCommand_inv hs h
  | tick => cases h; exact hs
  | setKey index pressed => cases h; exact setKeyCommand_inv index pressed hs
  | ackDisplay => cases h; exact hs

/-- Taking a command writes the interface alone. -/
theorem State.takeCommand_eq (s : State) : s.takeCommand = { s with port := s.takeCommand.port } := by
  unfold State.takeCommand
  split
  · rfl
  · rfl

/-- Settles O9: a step is one command, and every command keeps the invariant. -/
theorem everyStepKeepsTheInvariant : Obligations.EveryStepKeepsTheInvariant := by
  intro s t hs h
  have htake : s.takeCommand.Inv := s.takeCommand_eq ▸ hs
  exact perform_inv htake h

end Sys2Proof.Machine
end

section
/-! SUPPORT. STEP and the schedule (40_fetch_decode_execute.md R90 to R96, 00_scope.md R7): which command a step performs, what a
STEP reports, and that a schedule runs in order because no command reads it. -/

namespace Sys2Proof.Machine

/-! ## Completion and the command a step performs -/

theorem perform_answers_next (c : Command) (s : State) : ∃ t, perform c s = .next t := by
  cases c with
  | step rnd => exact stepCommand_answers_next rnd s
  | _ => exact ⟨_, rfl⟩

/-- Settles O13: a step is one command, and a command other than STEP is a plain update. -/
theorem everyStepAnswersANextState : Obligations.EveryStepAnswersANextState :=
  ⟨fun s => perform_answers_next _ s.takeCommand, perform_answers_next, exec_answers_next⟩

/-- With nothing scheduled a step is a STEP with the next byte of the random source. -/
theorem step_of_idle {s : State} (h : s.port.schedule = []) : step s =
    stepCommand (Config.randomByte s.port.draws)
      { s with port := ⟨[], s.port.rnd, s.port.draws + 1, s.port.result⟩ } := by
  simp only [step, State.nextCommand, State.takeCommand, h, perform]

/-- A step performs the first command of the schedule. -/
theorem step_of_scheduled {s : State} {c : Command} {cs : List Command} (h : s.port.schedule = c :: cs) :
    step s = perform c { s with port := ⟨cs, s.port.rnd, s.port.draws, s.port.result⟩ } := by
  simp only [step, State.nextCommand, State.takeCommand, h]

/-- The fetch reads nothing of the interface. -/
theorem stepCommand_port_of_decoded {s : State} {i : Instr} (rnd : Byte) (p : Port) (h : decodeWord s.fetchWord = .ok i) :
    stepCommand rnd { s with port := p } = exec i ({ s with port := p }.beginStep rnd) :=
  stepCommand_of_decoded rnd h

theorem stepCommand_port_of_rejected {s : State} {e : DecodeError} (rnd : Byte) (p : Port)
    (h : decodeWord s.fetchWord = .error e) : stepCommand rnd { s with port := p } =
      .next (({ s with port := p }.beginStep rnd).report (.unrecognized s.fetchWord)) :=
  stepCommand_of_rejected rnd h

/-- Settles O12: the command taken is a STEP, and what it decodes does not depend on the interface. -/
theorem stepRunsTheDecodedInstruction : Obligations.StepRunsTheDecodedInstruction := by
  intro s
  refine ⟨fun i hi hs => ?_, fun i b cs hi hs => ?_, fun e he hs => ?_⟩
  · exact (step_of_idle hs).trans (stepCommand_port_of_decoded _ _ hi)
  · exact (step_of_scheduled hs).trans (stepCommand_port_of_decoded _ _ hi)
  · exact (step_of_idle hs).trans (stepCommand_port_of_rejected _ _ he)

/-! ## The report of a STEP -/

/-- An instruction that is neither a call nor a return leaves the report the STEP began with. -/
theorem stepCommand_reports_none {s t : State} {i : Instr} {rnd : Byte} (hi : decodeWord s.fetchWord = .ok i)
    (hcall : ∀ nnn, i ≠ .call nnn) (hret : i ≠ .ret) (h : stepCommand rnd s = .next t) :
    t.port.result = .report .none := by
  rw [stepCommand_of_decoded rnd hi] at h
  obtain ⟨-, hport, -⟩ := instructionsLeaveTheCommandInterface _ _ _ h
  rw [hport hcall hret]
  rfl

theorem stepCommand_call_reports {s t : State} {nnn : Imm12} {rnd : Byte} (hi : decodeWord s.fetchWord = .ok (.call nnn))
    (h : stepCommand rnd s = .next t) :
    t.port.result = .report (if s.sp.toNat < 16 then .none else .stackOverflow) := by
  rw [stepCommand_of_decoded rnd hi] at h
  split_ifs with hroom
  · cases (exec_call_of_lt (s := s.beginStep rnd) nnn hroom).symm.trans h
    rfl
  · cases (exec_call_of_ge (s := s.beginStep rnd) nnn (Nat.not_lt.mp hroom)).symm.trans h
    rfl

theorem stepCommand_ret_reports {s t : State} {rnd : Byte} (hi : decodeWord s.fetchWord = .ok .ret)
    (h : stepCommand rnd s = .next t) :
    t.port.result = .report (if s.sp.toNat = 0 then .stackUnderflow else .none) := by
  rw [stepCommand_of_decoded rnd hi] at h
  split_ifs with hempty
  · cases (exec_ret_of_zero (s := s.beginStep rnd) hempty).symm.trans h
    rfl
  · cases (exec_ret_of_pos (s := s.beginStep rnd) (Nat.pos_of_ne_zero hempty)).symm.trans h
    rfl

/-- Settles O14: a STEP begins with the report NONE, and only a rejected word, a call and a return can set another. -/
theorem stepReportsExactlyTheErrorConditions : Obligations.StepReportsExactlyTheErrorConditions := by
  intro rnd s
  obtain ⟨t, ht⟩ := stepCommand_answers_next rnd s
  refine ⟨t, ht, ?_⟩
  split
  case h_1 e he =>
    cases (stepCommand_of_rejected rnd he).symm.trans ht
    rfl
  case h_2 nnn hi => exact stepCommand_call_reports hi ht
  case h_3 hi => exact stepCommand_ret_reports hi ht
  case h_4 i hcall hret hi => exact stepCommand_reports_none hi hcall hret ht

/-! ## A schedule runs in order -/

/-- The same core with the commands `cs` still to come. -/
def State.withSchedule (cs : List Command) (s : State) : State := { s with port := { s.port with schedule := cs } }

/-- The outcome with its next state, where there is one, changed by `f`. -/
def onNext (f : State → State) : Result → Result
  | .next t => .next (f t)
  | .fault r => .fault r
  | .refused r => .refused r

theorem State.skipIf_withSchedule (s : State) (cs : List Command) (c : Bool) :
    (s.withSchedule cs).skipIf c = (s.skipIf c).withSchedule cs := by
  cases c <;> rfl

/-- No instruction reads or writes the schedule. -/
theorem exec_withSchedule (i : Instr) (cs : List Command) (s : State) :
    exec i (s.withSchedule cs) = onNext (State.withSchedule cs) (exec i s) := by
  cases i with
  | call nnn =>
    cases Nat.lt_or_ge s.sp.toNat 16 with
    | inl hlt => rw [exec_call_of_lt nnn hlt, exec_call_of_lt nnn (s := s.withSchedule cs) hlt]; rfl
    | inr hge => rw [exec_call_of_ge nnn hge, exec_call_of_ge nnn (s := s.withSchedule cs) hge]; rfl
  | ret =>
    cases Nat.eq_zero_or_pos s.sp.toNat with
    | inl hzero => rw [exec_ret_of_zero hzero, exec_ret_of_zero (s := s.withSchedule cs) hzero]; rfl
    | inr hpos => rw [exec_ret_of_pos hpos, exec_ret_of_pos (s := s.withSchedule cs) hpos]; rfl
  | ldVxK x =>
    cases hk : s.lowestKey with
    | none => rw [exec_ldVxK_of_none x hk, exec_ldVxK_of_none (s := s.withSchedule cs) x hk]; rfl
    | some k => rw [exec_ldVxK_of_some x hk, exec_ldVxK_of_some (s := s.withSchedule cs) x hk]; rfl
  | seImm | sneImm | seReg | sneReg | skp | sknp =>
    exact congrArg Host.Outcome.next (s.skipIf_withSchedule cs _)
  | _ => rfl


theorem stepCommand_withSchedule (rnd : Byte) (cs : List Command) (s : State) :
    stepCommand rnd (s.withSchedule cs) = onNext (State.withSchedule cs) (stepCommand rnd s) := by
  cases hi : decodeWord s.fetchWord with
  | ok i =>
    rw [stepCommand_of_decoded rnd hi, stepCommand_of_decoded rnd (s := s.withSchedule cs) hi]
    exact exec_withSchedule i cs (s.beginStep rnd)
  | error e =>
    rw [stepCommand_of_rejected rnd hi, stepCommand_of_rejected rnd (s := s.withSchedule cs) hi]
    rfl

theorem loadCommand_withSchedule (image : List Byte) (cs : List Command) (s : State) :
    loadCommand image (s.withSchedule cs) = (loadCommand image s).withSchedule cs := by
  unfold loadCommand
  split_ifs <;> rfl

theorem setKeyCommand_withSchedule (index : Nat) (pressed : Bool) (cs : List Command) (s : State) :
    setKeyCommand index pressed (s.withSchedule cs) = (setKeyCommand index pressed s).withSchedule cs := by
  unfold setKeyCommand
  split_ifs <;> rfl

/-- No command reads or writes the commands to come after it. -/
theorem perform_withSchedule (c : Command) (cs : List Command) (s : State) :
    perform c (s.withSchedule cs) = onNext (State.withSchedule cs) (perform c s) := by
  cases c with
  | step rnd => exact stepCommand_withSchedule rnd cs s
  | load image => exact congrArg Host.Outcome.next (loadCommand_withSchedule image cs s)
  | setKey index pressed => exact congrArg Host.Outcome.next (setKeyCommand_withSchedule index pressed cs s)
  | _ => rfl

theorem perform_withSchedule_of_next {c : Command} {s t : State} (h : perform c s = .next t) (cs : List Command) :
    perform c (s.withSchedule cs) = .next (t.withSchedule cs) := by
  rw [perform_withSchedule, h]
  rfl

theorem run_succ_of_next {n : Nat} {s t : State} (h : step s = .next t) :
    Host.Core.run Sys2Proof.core (n + 1) s = Host.Core.run Sys2Proof.core n t := by
  have hcore : Sys2Proof.core.step s = .next t := h
  simp only [Host.Core.run, hcore]

theorem performAll_cons_of_next {c : Command} {s t : State} (h : perform c s = .next t) (cs : List Command) :
    performAll (c :: cs) s = performAll cs t := by
  simp only [performAll, h]

/-- The run of a schedule performs its commands one after the other, by induction on the schedule: the first step performs
the first command and leaves the rest scheduled. -/
theorem run_withSchedule (cs : List Command) (s : State) :
    Host.Core.run Sys2Proof.core cs.length (s.withSchedule cs) = performAll cs (s.withSchedule []) := by
  induction cs generalizing s with
  | nil => rfl
  | cons c cs ih =>
    obtain ⟨t, ht⟩ := perform_answers_next c s
    have hstep : step (s.withSchedule (c :: cs)) = .next (t.withSchedule cs) :=
      (step_of_scheduled rfl).trans (perform_withSchedule_of_next ht cs)
    rw [List.length_cons, run_succ_of_next hstep, ih t, performAll_cons_of_next (perform_withSchedule_of_next ht [])]

/-- Settles O15: what each command does does not depend on the commands after it. -/
theorem scheduledCommandsRunInOrder : Obligations.ScheduledCommandsRunInOrder := run_withSchedule

end Sys2Proof.Machine
end

section
/-! SUPPORT. Call, return, the jump by `V[0]` and the skips (41_control_flow.md R101 to R108, 45_keypad_timers.md R160, R161). -/

namespace Sys2Proof.Machine

/-! ## Call and return -/

/-- Settles O27: with room the call is a push and a jump, else a report alone. -/
theorem callPushesTheAdvancedPcOrIsIgnored : Obligations.CallPushesTheAdvancedPcOrIsIgnored := by
  intro nnn s
  refine ⟨fun h => ?_, exec_call_of_ge nnn⟩
  exact ⟨_, exec_call_of_lt nnn h, Vector.getElem_setIfInBounds_self h,
    fun k hk hne => Vector.getElem_setIfInBounds_ne hk hne.symm, sp_succ_toNat h, zext16_toNat (by decide) nnn, rfl⟩

/-- Settles O28: with an entry the return is a pop, else a report alone. -/
theorem returnPopsPcOrIsReported : Obligations.ReturnPopsPcOrIsReported := by
  intro s
  refine ⟨fun h => ⟨_, exec_ret_of_pos h, sp_pred_toNat h, fun hlt => ?_, rfl⟩, exec_ret_of_zero⟩
  rw [State.popPc_pc, sp_pred_toNat h, s.stackEntry_of_lt hlt]

/-- The pop takes off the entry the push wrote, wherever `PC` went between the two. -/
theorem State.popPc_push {s : State} (h : s.sp.toNat < 16) (a : Word) :
    ((s.push s.pc).setPc a).popPc = { s with stack := (s.push s.pc).stack } := by
  have hsp : s.sp + 1 - 1 = s.sp := BitVec.add_sub_cancel s.sp 1
  have hpc : ((s.push s.pc).setPc a).stackEntry s.sp.toNat = s.pc :=
    (State.stackEntry_of_lt _ h).trans (Vector.getElem_setIfInBounds_self h)
  simp only [State.popPc, State.setPc_sp, State.push_sp, hsp, hpc]
  rfl

/-- Settles O29: `SP` and `PC` are again those before the call, and only the entry pushed stays behind. -/
theorem returnUndoesCall : Obligations.ReturnUndoesCall := by
  intro nnn s h
  have hpos : 0 < ((s.push s.pc).setPc (zext16 nnn)).sp.toNat := by
    rw [State.setPc_sp, State.push_sp, sp_succ_toNat h]
    exact Nat.succ_pos _
  exact ⟨_, _, exec_call_of_lt nnn h, exec_ret_of_pos hpos, State.popPc_push h _,
    fun k hk hne => Vector.getElem_setIfInBounds_ne hk hne.symm, Vector.getElem_setIfInBounds_self h⟩

/-! ## Jump and skips -/

/-- Settles O30: the two addends are below 2^12 and 2^8, so their 16-bit sum is the sum of the numbers. -/
theorem jumpViaV0AddsWithoutReduction : Obligations.JumpViaV0AddsWithoutReduction := by
  intro nnn s
  refine ⟨_, rfl, ?_, rfl⟩
  have := nnn.isLt
  have := (s.reg 0).isLt
  rw [State.setPc_pc, BitVec.toNat_add, zext16_toNat (by decide), zext16_toNat (by decide)]
  omega

/-- Settles O32: the two skips on two registers, by their conditions. -/
theorem skipsOnRegister : Obligations.SkipsOnRegister := fun _ _ _ _ =>
  ⟨exec_of_skipTaken rfl, exec_of_skipTaken rfl⟩

/-- Settles O33: the two skips on a key, by their conditions. -/
theorem skipsOnKey : Obligations.SkipsOnKey := by
  rintro x s k hk rfl
  exact ⟨exec_of_skipTaken rfl, exec_of_skipTaken rfl⟩

end Sys2Proof.Machine
end

section
/-! SUPPORT. The ALU (42_alu.md R120 to R133): what the flag writers' common update leaves, and each one's result and flag as
numbers. -/

namespace Sys2Proof.Machine

/-! ## Logic -/

/-- Settles O36: each is one register write, of the bitwise combination of the two registers read before. -/
theorem logicInstructionsAreBitwise : Obligations.LogicInstructionsAreBitwise := by
  intro x y s
  refine ⟨⟨_, rfl, fun b _ => ?_, s.setReg_frame x _⟩, ⟨_, rfl, fun b _ => ?_, s.setReg_frame x _⟩,
    ⟨_, rfl, fun b _ => ?_, s.setReg_frame x _⟩⟩
  · rw [State.reg_setReg_same, BitVec.getLsbD_or]
  · rw [State.reg_setReg_same, BitVec.getLsbD_and]
  · rw [State.reg_setReg_same, BitVec.getLsbD_xor]

/-! ## Result and flag -/

/-- The result stands unless the flag took its register, the flag is what `f` says, and nothing else changes (R120, D11). -/
theorem State.setRegFlag_spec (s : State) (x : Nibble) {b : Byte} {f : Bool} {n : Nat} {p : Prop} [Decidable p]
    (hb : b.toNat = n) (hf : f = decide p) :
    (x ≠ 15 → ((s.setRegFlag x b f).reg x).toNat = n) ∧ (s.setRegFlag x b f).reg 15 = (if p then 1 else 0) ∧
    (∀ k, k ≠ x → k ≠ 15 → (s.setRegFlag x b f).reg k = s.reg k) ∧
    s.setRegFlag x b f = { s with v := (s.setRegFlag x b f).v } := by
  refine ⟨fun hx => ?_, ?_, fun k hkx hk15 => ?_, rfl⟩
  · rw [State.reg_setRegFlag, if_neg hx, if_pos rfl, hb]
  · rw [State.reg_setRegFlag, if_pos rfl, hf, flagByte_decide]
  · rw [State.reg_setRegFlag, if_neg hk15, if_neg hkx]

theorem byte_sub_toNat (a b : Byte) : (a - b).toNat = (256 + a.toNat - b.toNat) % 256 := by
  have := b.isLt
  rw [BitVec.toNat_sub]
  omega

theorem byte_shiftRight_one_toNat (a : Byte) : (a >>> 1).toNat = a.toNat / 2 := by
  rw [BitVec.toNat_ushiftRight, Nat.shiftRight_eq_div_pow, Nat.pow_one]

theorem byte_shiftLeft_one_toNat (a : Byte) : (a <<< 1).toNat = 2 * a.toNat % 256 := by
  rw [BitVec.toNat_shiftLeft, Nat.shiftLeft_eq, Nat.pow_one, Nat.mul_comm]

/-- Settles O37: the 9-bit sum's lower bits and its carry. -/
theorem addRegistersWithCarry : Obligations.AddRegistersWithCarry := fun x _ s =>
  ⟨_, rfl, s.setRegFlag_spec x (sum9_low_toNat _ _) (carryOut_eq _ _)⟩

/-- Settles O38: the difference modulo 256, and whether it needed no borrow. -/
theorem subtractWithNotBorrow : Obligations.SubtractWithNotBorrow := fun x _ s =>
  ⟨_, rfl, s.setRegFlag_spec x (byte_sub_toNat _ _) rfl⟩

/-- Settles O39: the same with the operands exchanged. -/
theorem subtractReversedWithNotBorrow : Obligations.SubtractReversedWithNotBorrow := fun x _ s =>
  ⟨_, rfl, s.setRegFlag_spec x (byte_sub_toNat _ _) rfl⟩

/-- Settles O40: the half, and the bit dropped. -/
theorem shiftRightDropsBitZero : Obligations.ShiftRightDropsBitZero := fun x _ s =>
  ⟨_, rfl, s.setRegFlag_spec x (byte_shiftRight_one_toNat _) (droppedRight_eq _)⟩

/-- Settles O41: the double modulo 256, and the bit dropped. -/
theorem shiftLeftDropsBitSeven : Obligations.ShiftLeftDropsBitSeven := fun x _ s =>
  ⟨_, rfl, s.setRegFlag_spec x (byte_shiftLeft_one_toNat _) (droppedLeft_eq _)⟩

/-! ## Random -/

/-- A STEP of CXKK masks the byte it was given. -/
theorem stepCommand_rnd {s : State} {x : Nibble} {kk : Byte} (b : Byte) (h : decodeWord s.fetchWord = .ok (.rnd x kk)) :
    ∃ t, stepCommand b s = .next t ∧ t.reg x = b &&& kk :=
  ⟨_, stepCommand_of_decoded b h, State.reg_setReg_same _ x _⟩

/-- Settles O42: the input byte is the one of the STEP, scheduled or not. -/
theorem randomIsTheInputByteMasked : Obligations.RandomIsTheInputByteMasked := by
  intro x kk s
  refine ⟨⟨_, rfl, s.reg_setReg_same x _, s.setReg_frame x _⟩, fun h => ⟨fun b => stepCommand_rnd b h, fun hidle => ?_⟩⟩
  rw [step_of_idle hidle]
  exact stepCommand_rnd _ h

end Sys2Proof.Machine
end

section
/-! SUPPORT. The address register and the memory instructions (43_index_memory.md R141 to R146). -/

namespace Sys2Proof.Machine

/-- Settles O44: a 16-bit addition of a zero-extended byte. -/
theorem addToAddressRegisterCarriesThrough16Bits : Obligations.AddToAddressRegisterCarriesThrough16Bits := by
  intro x s
  have hi : (s.i + zext16 (s.reg x)).toNat = (s.i.toNat + (s.reg x).toNat) % 65536 := by
    rw [BitVec.toNat_add, zext16_toNat (by decide)]
  exact ⟨_, rfl, hi, rfl⟩

theorem glyphAddr_toNat (a : Byte) : (glyphAddr a).toNat = 0x50 + 5 * a.toNat := by
  have := a.isLt
  rw [glyphAddr, BitVec.toNat_ofNat, fontBase]
  omega

/-- Settles O45: the address is far below 2^16 for every byte. -/
theorem glyphAddressUsesTheWholeByte : Obligations.GlyphAddressUsesTheWholeByte := fun x s =>
  ⟨_, rfl, glyphAddr_toNat (s.reg x), rfl⟩

/-- What a store of consecutive bytes from `I` leaves: each byte in its cell, every other cell as before. -/
theorem State.byteAt_writeMany_ea {s : State} (hs : s.mem.wf = true) {bs : List Byte} (hlen : bs.length ≤ 16) :
    (∀ k, (hk : k < bs.length) → (s.mem.writeMany s.i bs).byteAt (cellOf (s.ea k)) = bs[k]) ∧
    (∀ a, (∀ k < bs.length, a ≠ cellOf (s.ea k)) → (s.mem.writeMany s.i bs).byteAt a = s.mem.byteAt a) :=
  ⟨fun _ hk => Memory.byteAt_writeMany_inside hs s.i bs (hlen.trans (by decide)) hk,
    fun _ ha => Memory.byteAt_writeMany_outside hs s.i bs ha⟩

theorem decimalDigits_getElem_toNat (a : Byte) : (decimalDigits a)[0].toNat = a.toNat / 100 ∧
    (decimalDigits a)[1].toNat = a.toNat / 10 % 10 ∧ (decimalDigits a)[2].toNat = a.toNat % 10 := by
  simpa [decimalDigits] using decimalDigits_toNat a

/-- Settles O46: the three digits of the byte, stored from `I`. -/
theorem decimalDigitsAreStored : Obligations.DecimalDigitsAreStored := by
  intro x s hs
  have hlt := (s.reg x).isLt
  obtain ⟨hinside, houtside⟩ := State.byteAt_writeMany_ea hs (bs := decimalDigits (s.reg x)) (by simp)
  obtain ⟨hh, hd, hu⟩ := decimalDigits_getElem_toNat (s.reg x)
  refine ⟨_, rfl, ⟨(s.reg x).toNat / 100, (s.reg x).toNat / 10 % 10, (s.reg x).toNat % 10, ?_, ?_, ?_, ?_, ?_, ?_, ?_⟩,
    houtside, rfl⟩
  case refine_5 => exact (congrArg BitVec.toNat (hinside 0 (by simp))).trans hh
  case refine_6 => exact (congrArg BitVec.toNat (hinside 1 (by simp))).trans hd
  case refine_7 => exact (congrArg BitVec.toNat (hinside 2 (by simp))).trans hu
  all_goals omega

theorem lt_regsTo_length {s : State} {x : Nibble} {k : Nat} (h : k ≤ x.toNat) : k < (s.regsTo x).length := by
  rw [State.regsTo_length]
  omega

/-- Settles O47: the registers up to `X`, stored from `I`. -/
theorem registersAreStoredFromI : Obligations.RegistersAreStoredFromI := by
  intro x s hs
  obtain ⟨hinside, houtside⟩ := State.byteAt_writeMany_ea hs (bs := s.regsTo x) (by rw [State.regsTo_length]; exact x.isLt)
  refine ⟨_, rfl, fun k hk => ?_, fun a ha => houtside a fun k hk => ha k ?_, rfl⟩
  · rw [State.setMem_mem, hinside k.toNat (lt_regsTo_length hk), State.regsTo_getElem, BitVec.ofNat_toNat, BitVec.setWidth_eq]
  · rw [State.regsTo_length] at hk
    omega

/-- A register for which there is a byte takes it. -/
theorem State.reg_setRegs_of_lt (s : State) {bs : List Byte} {k : Nibble} (h : k.toNat < bs.length) :
    (s.setRegs bs).reg k = bs[k.toNat] := by
  rw [State.reg_setRegs, List.getD_eq_getElem _ _ h]

/-- Settles O48: a register up to `X` takes the byte in its cell, and for one above `X` there is no byte. -/
theorem registersAreLoadedFromI : Obligations.RegistersAreLoadedFromI := by
  intro x s
  refine ⟨_, rfl, fun k hk => ?_, fun k hk => ?_, rfl⟩
  · have hlt : k.toNat < (s.mem.readMany s.i (x.toNat + 1)).length := by
      rw [Memory.readMany_length]
      omega
    rw [State.reg_setRegs_of_lt s hlt, Memory.readMany_getElem]
    rfl
  · exact s.reg_setRegs_of_ge (by rwa [Memory.readMany_length])

/-- What the store leaves, of the state it is known to answer. -/
theorem byteAt_of_exec_storeRegs {x : Nibble} {s t : State} (hs : s.mem.wf = true) (h : exec (.storeRegs x) s = .next t)
    {k : Nibble} (hk : k.toNat ≤ x.toNat) : t.mem.byteAt (cellOf (s.ea k.toNat)) = s.reg k := by
  obtain ⟨t', ht', hin, -⟩ := registersAreStoredFromI x s hs
  cases h.symm.trans ht'
  exact hin k hk

/-- Settles O49: the load reads the cells the store wrote, since the store leaves `I`. -/
theorem loadAfterStoreRestoresTheRegisters : Obligations.LoadAfterStoreRestoresTheRegisters := by
  intro x s t r hs hstore hmem hi
  have hti : t.i = s.i := by cases hstore; rfl
  obtain ⟨u, hu, hlow, hhigh, -⟩ := registersAreLoadedFromI x r
  refine ⟨u, hu, fun k hk => ?_, hhigh⟩
  have hea : r.ea k.toNat = s.ea k.toNat := by rw [State.ea, State.ea, hi, hti]
  rw [hlow k hk, hmem, hea, byteAt_of_exec_storeRegs hs hstore hk]

theorem State.ea_zero (s : State) : s.ea 0 = s.i := BitVec.add_zero s.i

/-- Settles O17: the fetch at `I` reads the cells of `I` and `I + 1`, which hold `V[0]` and `V[1]`. -/
theorem storedBytesAreFetchedNext : Obligations.StoredBytesAreFetchedNext := by
  intro x s hs hx
  obtain ⟨t, ht⟩ := exec_answers_next (.storeRegs x) s
  have hhi : t.mem.byteAt (cellOf s.i) = s.reg 0 := s.ea_zero ▸ byteAt_of_exec_storeRegs hs ht (k := 0) (Nat.zero_le _)
  have hlo : t.mem.byteAt (cellOf (s.i + 1)) = s.reg 1 := byteAt_of_exec_storeRegs hs ht (k := 1) hx
  refine ⟨t, ht, ?_⟩
  rw [State.fetchWord, Memory.read2, Memory.read1, Memory.read1, hhi, hlo]

end Sys2Proof.Machine
end

section
/-! SUPPORT. The draw (44_display.md R151 to R153): what the two loops leave, in the terms of the spec's geometry `spriteCovers`. -/

namespace Sys2Proof.Machine

/-- The rows a draw reads cover the pixels the spec says. -/
theorem rowsCover_readMany_iff (s : State) (x y n : Nibble) (px py : Nat) :
    rowsCover (s.reg x).toNat (s.reg y).toNat (s.mem.readMany s.i n.toNat) px py ↔ spriteCovers s x y n px py := by
  have hrow : ∀ r, (h : r < (s.mem.readMany s.i n.toNat).length) →
      (s.mem.readMany s.i n.toNat)[r] = s.mem.byteAt ((s.i.toNat + r) % 4096) := fun r h => by
    rw [Memory.readMany_getElem, Memory.read1, ← cellOf_ea s r, State.ea]
  constructor
  · rintro ⟨r, hr, c, hc, hbit, hx, hy⟩
    rw [hrow r hr] at hbit
    rw [Memory.readMany_length] at hr
    exact ⟨r, c, hr, hc, hbit, hx, hy⟩
  · rintro ⟨r, c, hr, hc, hbit, hx, hy⟩
    have hr' : r < (s.mem.readMany s.i n.toNat).length := by rwa [Memory.readMany_length]
    rw [← hrow r hr'] at hbit
    exact ⟨r, hr', c, hc, hbit, hx, hy⟩

/-- A draw has at most 15 rows, so it addresses no pixel twice. -/
theorem State.blit_spec (s : State) (x y n : Nibble) :
    (∀ px py, py < 32 → ((s.blit x y n).disp.pixel px py = true ↔
      Xor (s.disp.pixel px py = true) (spriteCovers s x y n px py))) ∧
    ((s.blit x y n).hit = true ↔ ∃ px py, spriteCovers s x y n px py ∧ s.disp.pixel px py = true) := by
  have hlen : (s.mem.readMany s.i n.toNat).length ≤ 32 := by
    have := n.isLt
    rw [Memory.readMany_length]
    omega
  obtain ⟨hpixel, hhit⟩ := blitRows_spec (s.reg x).toNat (s.reg y).toNat _ hlen ⟨s.disp, false⟩
  simp only [rowsCover_readMany_iff, Bool.false_eq_true, false_or] at hpixel hhit
  exact ⟨hpixel, hhit⟩

/-- A covered pixel is one of the 32 rows. -/
theorem lt_of_spriteCovers {s : State} {x y n : Nibble} {px py : Nat} (h : spriteCovers s x y n px py) : py < 32 := by
  obtain ⟨r, c, -, -, -, -, rfl⟩ := h
  exact Nat.mod_lt _ (by decide)

/-- What `DXYN` leaves. -/
def State.drawn (s : State) (x y n : Nibble) : State := (s.showDisp (s.blit x y n).disp).setFlag (s.blit x y n).hit

theorem exec_drw (x y n : Nibble) (s : State) : exec (.drw x y n) s = .next (s.drawn x y n) := rfl

theorem State.drawn_flag (s : State) (x y n : Nibble) : (s.drawn x y n).reg 15 = flagByte (s.blit x y n).hit :=
  State.reg_setFlag_flag _ _

/-- Settles O51: the loops invert the covered pixels and hit the lit ones among them. -/
theorem drawInvertsExactlyTheCoveredPixels : Obligations.DrawInvertsExactlyTheCoveredPixels := by
  intro x y n s
  obtain ⟨hpixel, hhit⟩ := s.blit_spec x y n
  refine ⟨s.drawn x y n, exec_drw x y n s, fun px _ py hpy => hpixel px py hpy, fun hlit => ?_, fun hunlit => ?_, rfl,
    fun k hk => ?_, rfl⟩
  · rw [State.drawn_flag, hhit.mpr hlit]
    rfl
  · rw [State.drawn_flag, Bool.eq_false_iff.mpr (mt hhit.mp hunlit)]
    rfl
  · exact (State.reg_setFlag _ k _).trans (if_neg hk)

theorem flagByte_eq_one_iff (f : Bool) : flagByte f = 1 ↔ f = true := by
  cases f <;> decide

/-- Where the registers are those of the first draw, a second draw covers the same pixels. -/
theorem spriteCovers_drawn_iff (s : State) (x y n : Nibble) (px py : Nat) :
    spriteCovers { s.drawn x y n with v := s.v } x y n px py ↔ spriteCovers s x y n px py := Iff.rfl

theorem drawn_pixel_iff (s : State) (x y n : Nibble) {px py : Nat} (hpy : py < 32) :
    (s.drawn x y n).disp.pixel px py = true ↔ Xor (s.disp.pixel px py = true) (spriteCovers s x y n px py) :=
  (s.blit_spec x y n).1 px py hpy

/-- Settles O52: inverting the covered pixels twice restores them, and the second draw meets each of them inverted. -/
theorem drawTwiceRestoresTheDisplay : Obligations.DrawTwiceRestoresTheDisplay := by
  intro x y n s
  obtain ⟨hsecond, hhit⟩ := ({ s.drawn x y n with v := s.v } : State).blit_spec x y n
  refine ⟨s.drawn x y n, _, exec_drw x y n s, exec_drw x y n _, ?_, ?_⟩
  · refine Display.ext_pixel fun px _ py hpy => Bool.eq_iff_iff.mpr ((hsecond px py hpy).trans ?_)
    rw [spriteCovers_drawn_iff, drawn_pixel_iff s x y n hpy]
    simp only [Xor]
    tauto
  · rw [State.drawn_flag, flagByte_eq_one_iff, hhit]
    refine exists_congr fun px => exists_congr fun py => and_congr_right fun hcov => ?_
    have hcov' : spriteCovers s x y n px py := hcov
    rw [drawn_pixel_iff s x y n (lt_of_spriteCovers hcov), xor_iff_not_iff', iff_true_right hcov', Bool.not_eq_true]

end Sys2Proof.Machine
end

section
/-! SUPPORT. The wait for a key over many STEPs (45_keypad_timers.md R162), RESET and LOAD (70_reset_and_hazards.md R190 to
R193). -/

namespace Sys2Proof.Machine

/-! ## Waiting -/

/-- Settles O54: one STEP of the wait leaves the core as it was, so the next STEP waits too; by induction on the STEPs. -/
theorem waitingForAKeyChangesNothing : Obligations.WaitingForAKeyChangesNothing := by
  intro rnds x s hi hkeys
  induction rnds generalizing s with
  | nil => exact ⟨s, rfl, rfl⟩
  | cons rnd rnds ih =>
    have hstep : perform (.step rnd) s = .next { s with port := (s.beginStep rnd).port } :=
      stepCommand_ldVxK_of_none rnd hi (State.lowestKey_eq_none hkeys)
    obtain ⟨t, ht, hframe⟩ := ih { s with port := (s.beginStep rnd).port } hi hkeys
    exact ⟨t, (performAll_cons_of_next hstep _).trans ht, hframe⟩

/-! ## RESET -/

/-- Settles O58: RESET writes every piece of the core, and a second RESET finds the same `FONT` and interface. -/
theorem resetForgetsTheStateBefore : Obligations.ResetForgetsTheStateBefore := fun _ => ⟨rfl, rfl⟩

/-! ## LOAD -/

/-- What an accepted LOAD leaves: a new core with the same `FONT` and the image in its memory (R192). -/
def State.loaded (image : List Byte) (s : State) : State :=
  { State.newCore s.font with
    mem := (Memory.withFont s.font).writeMany imageBase image
    port := { s.port with result := .load .ok } }

theorem loadCommand_of_empty {image : List Byte} (h : image.length = 0) (s : State) :
    loadCommand image s = s.returns (.load .empty) := if_pos h

theorem loadCommand_of_tooLarge {image : List Byte} (h : 3584 < image.length) (s : State) :
    loadCommand image s = s.returns (.load .tooLarge) := by
  have hne : image.length ≠ 0 := by omega
  exact (if_neg hne).trans (if_pos h)

theorem loadCommand_of_fits {image : List Byte} (h1 : 1 ≤ image.length) (h2 : image.length ≤ 3584) (s : State) :
    loadCommand image s = s.loaded image := by
  have hne : image.length ≠ 0 := by omega
  exact (if_neg hne).trans (if_neg (Nat.not_lt.mpr h2))

/-- The image lies between 0x200 and the end of memory, so no address of it wraps. -/
theorem cellOf_imageBase {k : Nat} (hk : k < 3584) : cellOf (imageBase + BitVec.ofNat 16 k) = 0x200 + k := by
  rw [cellOf_add, cellOf, imageBase, Config.progBase, Config.memSize, BitVec.toNat_ofNat]
  omega

theorem byteAt_writeMany_image {m : Memory} (hm : m.wf = true) {image : List Byte} (hlen : image.length ≤ 3584) :
    (∀ k, (h : k < image.length) → (m.writeMany imageBase image).byteAt (0x200 + k) = image[k]) ∧
    ∀ a, a < 0x200 ∨ 0x200 + image.length ≤ a → (m.writeMany imageBase image).byteAt a = m.byteAt a := by
  constructor
  · intro k hk
    rw [← cellOf_imageBase (hk.trans_le hlen)]
    exact Memory.byteAt_writeMany_inside hm imageBase image (hlen.trans (by decide)) hk
  · intro a ha
    refine Memory.byteAt_writeMany_outside hm imageBase image fun k hk => ?_
    rw [cellOf_imageBase (hk.trans_le hlen)]
    omega

/-- Settles O59: the three lengths LOAD tells apart; the image is copied into the memory of a new core. -/
theorem loadCopiesTheImageOrChangesNothing : Obligations.LoadCopiesTheImageOrChangesNothing := by
  intro image s
  refine ⟨fun h1 h2 => ?_, fun h => congrArg Host.Outcome.next (loadCommand_of_empty h s),
    fun h => congrArg Host.Outcome.next (loadCommand_of_tooLarge h s)⟩
  obtain ⟨himage, hother⟩ := byteAt_writeMany_image (Memory.withFont_wf s.font) h2
  exact ⟨_, congrArg Host.Outcome.next (loadCommand_of_fits h1 h2 s), himage, hother, rfl⟩

/-- But for the interface, the `FONT` and the image decide what an accepted LOAD leaves. -/
theorem State.loaded_congr (image : List Byte) {s s' : State} (h : s.font = s'.font) :
    s'.loaded image = { s.loaded image with port := (s'.loaded image).port } := by
  simp only [State.loaded, h]

theorem performAll_load {image : List Byte} (h : imageOk image = true) (s : State) :
    performAll [.load image] s = .next (s.loaded image) := by
  simp only [imageOk, Bool.and_eq_true, decide_eq_true_eq] at h
  obtain ⟨h1, h2⟩ := h
  exact congrArg Host.Outcome.next (loadCommand_of_fits h1 h2 s)

/-- Settles O60: RESET keeps the `FONT`, and a new core is built with it, so the three LOADs agree but for the interface. -/
theorem loadIsTheSameFromEveryState : Obligations.LoadIsTheSameFromEveryState := by
  intro image s s' hok hfont
  have hreset : performAll [.reset, .load image] s' = performAll [.load image] (resetCommand s') := rfl
  exact ⟨_, _, _, performAll_load hok s, hreset.trans (performAll_load hok _), performAll_load hok _,
    State.loaded_congr image hfont, rfl⟩

end Sys2Proof.Machine
end
